-- ==== Sys2Proof/Word.lean ====
section
/-! DEFINITION. The two widths of the MSM66201 (spec/00_scope.md R8): bytes of 8 bits and words of 16 bits. -/

namespace Sys2Proof

/-- A byte of either memory space, or an 8-bit operand. -/
abbrev Byte := BitVec 8

/-- A word: the width of A, PC, PSW, SSP, the pointing registers and every address (R8). -/
abbrev Word := BitVec 16

end Sys2Proof
end

