-- ==== Sys2Proof/Config.lean ====
section
/-! DEFINITION. What the spec leaves to the implementation: the parameters of spec/00_scope.md R9, and the
free values, constants with no body that stand for every value the spec calls unspecified. -/

namespace Sys2Proof

/-- What lies at a range of data addresses (spec/20_memory.md R71). An address in no range is `absent`; the
four CPU registers are placed by the `addr*` parameters. -/
inductive RegionKind where
  /-- stored bytes -/
  | ram
  /-- a peripheral or control register the spec does not describe -/
  | sfr
deriving DecidableEq, Repr

/-- One row of `DATA_MAP` (R65): the data addresses `first` to `last`, both included. -/
structure Region where
  first : Nat
  last : Nat
  kind : RegionKind
deriving DecidableEq, Repr

/-- The opcodes whose cells the source lost (R9, decision D22). An unset one gives its instruction no encoding. -/
structure Opcodes where
  scal : Option Byte
  rolA : Option Byte
  srlA : Option Byte
  pushsA : Option Byte
  popsA : Option Byte
  popsLrb : Option Byte
  incLrb : Option Byte
  decLrb : Option Byte
deriving DecidableEq, Repr

/-- `INCDEC_SECOND_FLAG` (spec/43_inc_dec.md R260). -/
inductive SecondFlag where
  | hc
  | cf
deriving DecidableEq, Repr

/-- `ILLEGAL_OPCODE` (spec/30_encoding.md R135, spec/60_exceptions.md R456). -/
inductive IllegalMode where
  | refuse
  | optrap
deriving DecidableEq, Repr

/-- The seventeen interrupt sources, in the order of Table 1-1 (spec/60_exceptions.md R452). -/
inductive IntSource where
  | nmi | int0 | serialReceive | serialTransmit | brgReceive
  | timer0Overflow | timer0Event | timer1Overflow | timer1Event
  | timer2Overflow | timer2Event | timer3Overflow | timer3Event
  | adEnd | pwmOverflow | brgTransmit | int1
deriving DecidableEq, Repr

/-- An event the environment may deliver between two instructions (R460): the members `INT_LIVE` can have. -/
inductive Event where
  /-- overflow of the watchdog timer, entry 0004H (R455) -/
  | watchdog
  /-- an interrupt request of one source (R462) -/
  | interrupt (src : IntSource)
deriving DecidableEq, Repr

/-- The parameters a model takes as arguments (spec/00_scope.md R9), but for `ROM`, which is program memory. -/
structure Config where
  /-- `PSW_CF_BIT` (spec/10_state.md R28) -/
  cfBit : Fin 16
  /-- `PSW_ZF_BIT` (R28) -/
  zfBit : Fin 16
  /-- `PSW_HC_BIT` (R28) -/
  hcBit : Fin 16
  /-- `PSW_SF_BIT` (R28) -/
  sfBit : Fin 16
  /-- `ADDR_SSP` (R36) -/
  addrSsp : Option Word
  /-- `ADDR_LRB` (R36) -/
  addrLrb : Option Word
  /-- `ADDR_PSW` (R36) -/
  addrPsw : Option Word
  /-- `ADDR_ACC` (R36) -/
  addrAcc : Option Word
  /-- `DATA_MAP` (spec/20_memory.md R65): the first range that holds an address decides -/
  regions : List Region
  /-- the eight `OP_*` parameters -/
  opcodes : Opcodes
  /-- `INCDEC_SECOND_FLAG` -/
  incDecFlag : SecondFlag
  /-- `INT_LIVE` (R460) -/
  intLive : List Event
  /-- `ILLEGAL_OPCODE` -/
  illegalOpcode : IllegalMode
  /-- `RESET_KEEPS_RAM` (spec/70_reset_and_hazards.md R492) -/
  resetKeepsRam : Bool
  /-- `END_PC` (R505) -/
  endPc : Option Word
deriving DecidableEq, Repr

/-- The free values: the k-th value the spec calls unspecified or undetermined that a run meets. It has no body,
so nothing can be proved of it and what is proved holds whatever it is (log entry 9). -/
opaque Config.freeWord : Nat → Word

/-- The free contents of data RAM after a reset that does not keep it (R492, log entry 10). No body. -/
opaque Config.freeCells : Nat → List (Nat × Byte)

/-- What the environment chooses at its `n`-th instruction boundary: no event, or one (R460, R507, log entry 20). No
body: a run may meet events for ever, or none. -/
opaque Config.freeEvent : Nat → Option Event

end Sys2Proof
end

