-- ==== Sys2Proof/Machine/Candidates.lean ====
section
/-! DEFINITION. The values State.reset takes where the spec gives a candidate or nothing
(spec/00_scope.md R9; log entries 2, 3, 4, 5, 8, 34). Every statement over all states is free of them. -/

namespace Sys2Proof

/-- The candidate opcodes of R9 (PRESUMED or DEDUCED, log entry 4). -/
def Opcodes.candidate : Opcodes where
  scal := some 0x31#8
  rolA := some 0x33#8
  srlA := some 0x63#8
  pushsA := some 0x55#8
  popsA := some 0x65#8
  popsLrb := some 0x64#8
  incLrb := some 0xFD#8
  decLrb := some 0xFE#8

/-- The default `DATA_MAP` (spec/20_memory.md R65): the on-chip data space. -/
def onChipRegions : List Region :=
  [⟨0x0000, 0x007F, .sfr⟩, ⟨0x0080, 0x027F, .ram⟩]

/-- Every parameter of R9 at its candidate value (PRESUMED: CF 15, ZF 14, HC 13, the four addresses, HC as the
second flag; DESIGN CHOICE: SF 11, for which the spec has no candidate). -/
def Config.candidate : Config where
  cfBit := 15
  zfBit := 14
  hcBit := 13
  sfBit := 11
  addrSsp := some 0x0000#16
  addrLrb := some 0x0002#16
  addrPsw := some 0x0004#16
  addrAcc := some 0x0006#16
  regions := onChipRegions
  opcodes := Opcodes.candidate
  incDecFlag := .hc
  intLive := []
  illegalOpcode := .refuse
  resetKeepsRam := false
  endPc := none

/-- A at reset (R46: not in source). PRESUMED, the family's value (log entry 2). -/
def resetA : Word := 0x0000#16

/-- PSW at reset: DD = 0 is the spec's (R46, R491); the other bits are PRESUMED 0, the family's (log entry 2). -/
def resetPsw : Word := 0x0000#16

/-- LRB bits 12..0 at reset (R46: not in source). DESIGN CHOICE 0 (log entry 2). -/
def resetLrb : BitVec 13 := 0x0000#13

/-- SSP at reset (R46: not in source). PRESUMED FFFFH, the family's value (log entry 2). -/
def resetSsp : Word := 0xFFFF#16

/-- PC of State.reset, which holds no program and so no vector word to load (R490). DESIGN CHOICE (log entry 8). -/
def resetPc : Word := 0x0000#16

end Sys2Proof
end

