-- ==== Sys2Proof/Machine/Bits.lean ====
section
/-! DEFINITION. Bit-field, byte-order and sign-extension helpers (spec/00_scope.md R10, R11; spec/20_memory.md R64). -/

namespace Sys2Proof

/-- The low byte of a word, `v[7:0]`: the byte at the lower address (R64). -/
def loByte (v : Word) : Byte := v.extractLsb' 0 8

/-- The high byte of a word, `v[15:8]`: the byte at the upper address (R64). -/
def hiByte (v : Word) : Byte := v.extractLsb' 8 8

/-- `hi : lo`, the word whose bytes are `hi` and `lo` (R64: low byte at the lower address). -/
def mkWord (hi lo : Byte) : Word := hi ++ lo

/-- `v` with bit `i` replaced by `b`. -/
def setBit {w : Nat} (v : BitVec w) (i : Nat) (b : Bool) : BitVec w :=
  bif b then v ||| BitVec.twoPow w i else v &&& ~~~ BitVec.twoPow w i

/-- The effective address of a word access: bit 0 is forced to 0 (R66). -/
def evenAddr (ea : Word) : Word := ea &&& 0xFFFE#16

end Sys2Proof
end

