-- ==== Sys2Proof/Syntax.lean ====
section
/-! DEFINITION. The instructions, one constructor per row of spec/opcode_table.json, and their addressing objects
(spec/30_encoding.md R110 to R128). The nine `(illegal)` rows are one constructor with the byte as its operand; a
prefix row's constructor is that prefix followed by a byte that makes no instruction with it (log entry 6). -/

namespace Sys2Proof

/-- The word objects a word prefix names (R124). -/
inductive WObj where
  /-- `erN`, a word local register (R114) -/
  | er (n : BitVec 2)
  /-- index register 1 (R112) -/
  | x1
  /-- index register 2 (R112) -/
  | x2
  /-- the data pointer (R112) -/
  | dp
  /-- the user stack pointer (R112) -/
  | usp
  /-- the system stack pointer (R115) -/
  | ssp
  /-- the local register base (R113) -/
  | lrb
  /-- `off N8`, current page (R116) -/
  | off (n : Byte)
  /-- `N8`, zero page (R117) -/
  | zp (n : Byte)
  /-- `[DP]` (R118) -/
  | dpInd
  /-- `±N8[USP]` (R119) -/
  | uspInd (n : Byte)
  /-- `N16[X1]` (R120) -/
  | x1Ind (n : Word)
  /-- `N16[X2]` (R120) -/
  | x2Ind (n : Word)
deriving DecidableEq, Repr

/-- The byte objects a byte prefix names (R124). -/
inductive BObj where
  /-- `rN`, a byte local register (R114) -/
  | r (n : BitVec 3)
  /-- the high byte of PSW (R113) -/
  | pswh
  /-- the low byte of PSW (R113) -/
  | pswl
  /-- `off N8`, current page (R116) -/
  | off (n : Byte)
  /-- `N8`, zero page (R117) -/
  | zp (n : Byte)
  /-- `[DP]` (R118) -/
  | dpInd
  /-- `±N8[USP]` (R119) -/
  | uspInd (n : Byte)
  /-- `N16[X1]` (R120) -/
  | x1Ind (n : Word)
  /-- `N16[X2]` (R120) -/
  | x2Ind (n : Word)
deriving DecidableEq, Repr

/-- An instruction: a row of spec/opcode_table.json with its operands. The rows with operands stand first, those
without last, each in the table's order. -/
inductive Instr where
  /-- `L A,#N16`: 67 N_L N_H (R151) -/
  | lImm (n : Word)
  /-- `L A,erN`: 34+N (R151) -/
  | lEr (r : BitVec 2)
  /-- `L A,N16[X1]`: E0 N_L N_H (R151) -/
  | lX1Ind (n : Word)
  /-- `L A,N16[X2]`: E1 N_L N_H (R151) -/
  | lX2Ind (n : Word)
  /-- `L A,±N8[USP]`: E3 N8 (R151) -/
  | lUspInd (n : Byte)
  /-- `L A,off N8`: E4 N8 (R151) -/
  | lOff (n : Byte)
  /-- `L A,N8`: E5 N8 (R151) -/
  | lZp (n : Byte)
  /-- `LB A,#N8`: 77 N8 (R152) -/
  | lbImm (n : Byte)
  /-- `LB A,rN`: 78+N (R152) -/
  | lbR (r : BitVec 3)
  /-- `LB A,N16[X1]`: F0 N_L N_H (R152) -/
  | lbX1Ind (n : Word)
  /-- `LB A,N16[X2]`: F1 N_L N_H (R152) -/
  | lbX2Ind (n : Word)
  /-- `LB A,±N8[USP]`: F3 N8 (R152) -/
  | lbUspInd (n : Byte)
  /-- `LB A,off N8`: F4 N8 (R152) -/
  | lbOff (n : Byte)
  /-- `LB A,N8`: F5 N8 (R152) -/
  | lbZp (n : Byte)
  /-- `ST A,erN`: 88+N, DD = 1 (R153) -/
  | stEr (r : BitVec 2)
  /-- `STB A,rN`: 88+N, DD = 0 (R154) -/
  | stbR (r : BitVec 3)
  /-- `ST A,N16[X1]`: D0 N_L N_H, DD = 1 (R153) -/
  | stX1Ind (n : Word)
  /-- `STB A,N16[X1]`: D0 N_L N_H, DD = 0 (R154) -/
  | stbX1Ind (n : Word)
  /-- `ST A,N16[X2]`: D1 N_L N_H, DD = 1 (R153) -/
  | stX2Ind (n : Word)
  /-- `STB A,N16[X2]`: D1 N_L N_H, DD = 0 (R154) -/
  | stbX2Ind (n : Word)
  /-- `ST A,±N8[USP]`: D3 N8, DD = 1 (R153) -/
  | stUspInd (n : Byte)
  /-- `STB A,±N8[USP]`: D3 N8, DD = 0 (R154) -/
  | stbUspInd (n : Byte)
  /-- `ST A,off N8`: D4 N8, DD = 1 (R153) -/
  | stOff (n : Byte)
  /-- `STB A,off N8`: D4 N8, DD = 0 (R154) -/
  | stbOff (n : Byte)
  /-- `ST A,N8`: D5 N8, DD = 1 (R153) -/
  | stZp (n : Byte)
  /-- `STB A,N8`: D5 N8, DD = 0 (R154) -/
  | stbZp (n : Byte)
  /-- `MOV A,obj`: wp 99 (R161) -/
  | movAObj (o : WObj)
  /-- `MOV obj,A`: wp 8A (R162) -/
  | movObjA (o : WObj)
  /-- `MOV X1,#N16`: 60 N_L N_H (R163) -/
  | movX1Imm (n : Word)
  /-- `MOV X2,#N16`: 61 N_L N_H (R163) -/
  | movX2Imm (n : Word)
  /-- `MOV DP,#N16`: 62 N_L N_H (R163) -/
  | movDpImm (n : Word)
  /-- `MOV LRB,#N16`: 57 N_L N_H (R163) -/
  | movLrbImm (n : Word)
  /-- `MOV obj,#N16`: wp 98 N_L N_H (R163) -/
  | movObjImm (o : WObj) (n : Word)
  /-- `MOV X1,obj`: wp 78 (R165) -/
  | movX1Obj (o : WObj)
  /-- `MOV X2,obj`: wp 79 (R166) -/
  | movX2Obj (o : WObj)
  /-- `MOV DP,obj`: wp 7A (R164) -/
  | movDpObj (o : WObj)
  /-- `MOV USP,obj`: wp 7B (R167) -/
  | movUspObj (o : WObj)
  /-- `MOV SSP,obj`: wp 7E (R168) -/
  | movSspObj (o : WObj)
  /-- `MOV LRB,obj`: wp 7F (R169) -/
  | movLrbObj (o : WObj)
  /-- `MOV erN,obj`: wp 48+N (R170) -/
  | movErObj (r : BitVec 2) (o : WObj)
  /-- `MOV off N8,obj`: wp 7C N8 (R171) -/
  | movOffObj (n : Byte) (o : WObj)
  /-- `MOV PSW,obj`: wp 7D (R183) -/
  | movPswObj (o : WObj)
  /-- `MOVB A,obj`: bp 99 (R191) -/
  | movbAObj (o : BObj)
  /-- `MOVB obj,A`: bp 8A (R192) -/
  | movbObjA (o : BObj)
  /-- `MOVB rN,#N8`: 98+N N8 (R193) -/
  | movbRImm (r : BitVec 3) (n : Byte)
  /-- `MOVB obj,#N8`: bp 98 N8 (R193) -/
  | movbObjImm (o : BObj) (n : Byte)
  /-- `MOVB rN,obj`: bp 48+N (R194) -/
  | movbRObj (r : BitVec 3) (o : BObj)
  /-- `MOVB off N8,obj`: bp 7C N8 (R195) -/
  | movbOffObj (n : Byte) (o : BObj)
  /-- `MOVB PSWH,obj`: bp 89 (R201) -/
  | movbPswhObj (o : BObj)
  /-- `MOVB PSWL,obj`: bp 88 (R202) -/
  | movbPswlObj (o : BObj)
  /-- `CLR obj`: wp 15 (R206) -/
  | clrObj (o : WObj)
  /-- `CLRB obj`: bp 15 (R208) -/
  | clrbObj (o : BObj)
  /-- `XCHG A,obj`: wp 10 (R212) -/
  | xchgAObj (o : WObj)
  /-- `XCHGB A,obj`: bp 10 (R213) -/
  | xchgbAObj (o : BObj)
  /-- `XNBL A,off N8`: 84 N8 (R214) -/
  | xnblAOff (n : Byte)
  /-- `ROL obj`: wp B7 (R232) -/
  | rolObj (o : WObj)
  /-- `ROLB obj`: bp B7 (R233) -/
  | rolbObj (o : BObj)
  /-- `ROR obj`: wp C7 (R235) -/
  | rorObj (o : WObj)
  /-- `RORB obj`: bp C7 (R236) -/
  | rorbObj (o : BObj)
  /-- `SLL obj`: wp D7 (R238) -/
  | sllObj (o : WObj)
  /-- `SLLB obj`: bp D7 (R239) -/
  | sllbObj (o : BObj)
  /-- `SRL obj`: wp E7 (R241) -/
  | srlObj (o : WObj)
  /-- `SRLB obj`: bp E7 (R242) -/
  | srlbObj (o : BObj)
  /-- `SRA obj`: wp F7 (R244) -/
  | sraObj (o : WObj)
  /-- `SRAB obj`: bp F7 (R245) -/
  | srabObj (o : BObj)
  /-- `INC obj`: wp 16 (R261) -/
  | incObj (o : WObj)
  /-- `INCB rN`: A8+N (R263) -/
  | incbR (r : BitVec 3)
  /-- `INCB obj`: bp 16 (R263) -/
  | incbObj (o : BObj)
  /-- `DEC obj`: wp 17 (R265) -/
  | decObj (o : WObj)
  /-- `DECB rN`: B8+N (R267) -/
  | decbR (r : BitVec 3)
  /-- `DECB obj`: bp 17 (R267) -/
  | decbObj (o : BObj)
  /-- `LC A,N*16`: 90 9C N_L N_H (R272) -/
  | lcDirect (n : Word)
  /-- `LC A,[obj]`: wp A8 (R273) -/
  | lcInd (o : WObj)
  /-- `LC A,N*16[obj]`: wp A9 N_L N_H (R274) -/
  | lcBased (o : WObj) (n : Word)
  /-- `LCB A,N*16`: 90 9D N_L N_H (R275) -/
  | lcbDirect (n : Word)
  /-- `LCB A,[obj]`: wp AA (R276) -/
  | lcbInd (o : WObj)
  /-- `LCB A,N*16[obj]`: wp AB N_L N_H (R277) -/
  | lcbBased (o : WObj) (n : Word)
  /-- `CMPC A,N*16`: 90 9E N_L N_H (R278) -/
  | cmpcDirect (n : Word)
  /-- `CMPC A,[obj]`: wp AC (R279) -/
  | cmpcInd (o : WObj)
  /-- `CMPC A,N*16[obj]`: wp AD N_L N_H (R280) -/
  | cmpcBased (o : WObj) (n : Word)
  /-- `CMPCB A,N*16`: 90 9F N_L N_H (R281) -/
  | cmpcbDirect (n : Word)
  /-- `CMPCB A,[obj]`: wp AE (R282) -/
  | cmpcbInd (o : WObj)
  /-- `CMPCB A,N*16[obj]`: wp AF N_L N_H (R283) -/
  | cmpcbBased (o : WObj) (n : Word)
  /-- `ADD A,#N16`: 86 N_L N_H, DD = 1 (R305) -/
  | addAImm (n : Word)
  /-- `ADDB A,#N8`: 86 N8, DD = 0 (R309) -/
  | addbAImm (n : Byte)
  /-- `ADD A,erN`: 08+N, DD = 1 (R305) -/
  | addAEr (r : BitVec 2)
  /-- `ADDB A,rN`: 08+N, DD = 0 (R309) -/
  | addbAR (r : BitVec 3)
  /-- `ADD A,off N8`: 87 N8, DD = 1 (R305) -/
  | addAOff (n : Byte)
  /-- `ADDB A,off N8`: 87 N8, DD = 0 (R309) -/
  | addbAOff (n : Byte)
  /-- `ADD A,obj`: wp 82 (R305) -/
  | addAObj (o : WObj)
  /-- `ADDB A,obj`: bp 82 (R309) -/
  | addbAObj (o : BObj)
  /-- `ADD obj,A`: wp 81 (R306) -/
  | addObjA (o : WObj)
  /-- `ADDB obj,A`: bp 81 (R310) -/
  | addbObjA (o : BObj)
  /-- `ADD obj,off N8`: wp 83 N8 (R307) -/
  | addObjOff (o : WObj) (n : Byte)
  /-- `ADDB obj,off N8`: bp 83 N8 (R311) -/
  | addbObjOff (o : BObj) (n : Byte)
  /-- `ADD obj,#N16`: wp 80 N_L N_H (R308) -/
  | addObjImm (o : WObj) (n : Word)
  /-- `ADDB obj,#N8`: bp 80 N8 (R312) -/
  | addbObjImm (o : BObj) (n : Byte)
  /-- `ADC A,#N16`: 96 N_L N_H, DD = 1 (R313) -/
  | adcAImm (n : Word)
  /-- `ADCB A,#N8`: 96 N8, DD = 0 (R317) -/
  | adcbAImm (n : Byte)
  /-- `ADC A,erN`: 18+N, DD = 1 (R313) -/
  | adcAEr (r : BitVec 2)
  /-- `ADCB A,rN`: 18+N, DD = 0 (R317) -/
  | adcbAR (r : BitVec 3)
  /-- `ADC A,off N8`: 97 N8, DD = 1 (R313) -/
  | adcAOff (n : Byte)
  /-- `ADCB A,off N8`: 97 N8, DD = 0 (R317) -/
  | adcbAOff (n : Byte)
  /-- `ADC A,obj`: wp 92 (R313) -/
  | adcAObj (o : WObj)
  /-- `ADCB A,obj`: bp 92 (R317) -/
  | adcbAObj (o : BObj)
  /-- `ADC obj,A`: wp 91 (R314) -/
  | adcObjA (o : WObj)
  /-- `ADCB obj,A`: bp 91 (R318) -/
  | adcbObjA (o : BObj)
  /-- `ADC obj,off N8`: wp 93 N8 (R315) -/
  | adcObjOff (o : WObj) (n : Byte)
  /-- `ADCB obj,off N8`: bp 93 N8 (R319) -/
  | adcbObjOff (o : BObj) (n : Byte)
  /-- `ADC obj,#N16`: wp 90 N_L N_H (R316) -/
  | adcObjImm (o : WObj) (n : Word)
  /-- `ADCB obj,#N8`: bp 90 N8 (R320) -/
  | adcbObjImm (o : BObj) (n : Byte)
  /-- `SUB A,#N16`: A6 N_L N_H, DD = 1 (R321) -/
  | subAImm (n : Word)
  /-- `SUBB A,#N8`: A6 N8, DD = 0 (R325) -/
  | subbAImm (n : Byte)
  /-- `SUB A,erN`: 28+N, DD = 1 (R321) -/
  | subAEr (r : BitVec 2)
  /-- `SUBB A,rN`: 28+N, DD = 0 (R325) -/
  | subbAR (r : BitVec 3)
  /-- `SUB A,off N8`: A7 N8, DD = 1 (R321) -/
  | subAOff (n : Byte)
  /-- `SUBB A,off N8`: A7 N8, DD = 0 (R325) -/
  | subbAOff (n : Byte)
  /-- `SUB A,obj`: wp A2 (R321) -/
  | subAObj (o : WObj)
  /-- `SUBB A,obj`: bp A2 (R325) -/
  | subbAObj (o : BObj)
  /-- `SUB obj,A`: wp A1 (R322) -/
  | subObjA (o : WObj)
  /-- `SUBB obj,A`: bp A1 (R326) -/
  | subbObjA (o : BObj)
  /-- `SUB obj,off N8`: wp A3 N8 (R323) -/
  | subObjOff (o : WObj) (n : Byte)
  /-- `SUBB obj,off N8`: bp A3 N8 (R327) -/
  | subbObjOff (o : BObj) (n : Byte)
  /-- `SUB obj,#N16`: wp A0 N_L N_H (R324) -/
  | subObjImm (o : WObj) (n : Word)
  /-- `SUBB obj,#N8`: bp A0 N8 (R328) -/
  | subbObjImm (o : BObj) (n : Byte)
  /-- `SBC A,#N16`: B6 N_L N_H, DD = 1 (R329) -/
  | sbcAImm (n : Word)
  /-- `SBCB A,#N8`: B6 N8, DD = 0 (R331) -/
  | sbcbAImm (n : Byte)
  /-- `SBC A,erN`: 38+N, DD = 1 (R329) -/
  | sbcAEr (r : BitVec 2)
  /-- `SBCB A,rN`: 38+N, DD = 0 (R331) -/
  | sbcbAR (r : BitVec 3)
  /-- `SBC A,off N8`: B7 N8, DD = 1 (R329) -/
  | sbcAOff (n : Byte)
  /-- `SBCB A,off N8`: B7 N8, DD = 0 (R331) -/
  | sbcbAOff (n : Byte)
  /-- `SBC A,obj`: wp B2 (R329) -/
  | sbcAObj (o : WObj)
  /-- `SBCB A,obj`: bp B2 (R331) -/
  | sbcbAObj (o : BObj)
  /-- `SBC obj,A`: wp B1 (R330) -/
  | sbcObjA (o : WObj)
  /-- `SBCB obj,A`: bp B1 (R334) -/
  | sbcbObjA (o : BObj)
  /-- `SBC obj,off N8`: wp B3 N8 (R332) -/
  | sbcObjOff (o : WObj) (n : Byte)
  /-- `SBCB obj,off N8`: bp B3 N8 (R335) -/
  | sbcbObjOff (o : BObj) (n : Byte)
  /-- `SBC obj,#N16`: wp B0 N_L N_H (R333) -/
  | sbcObjImm (o : WObj) (n : Word)
  /-- `SBCB obj,#N8`: bp B0 N8 (R336) -/
  | sbcbObjImm (o : BObj) (n : Byte)
  /-- `CMP A,#N16`: C6 N_L N_H, DD = 1 (R372) -/
  | cmpAImm (n : Word)
  /-- `CMPB A,#N8`: C6 N8, DD = 0 (R376) -/
  | cmpbAImm (n : Byte)
  /-- `CMP A,erN`: 48+N, DD = 1 (R372) -/
  | cmpAEr (r : BitVec 2)
  /-- `CMPB A,rN`: 48+N, DD = 0 (R376) -/
  | cmpbAR (r : BitVec 3)
  /-- `CMP A,off N8`: C7 N8, DD = 1 (R372) -/
  | cmpAOff (n : Byte)
  /-- `CMPB A,off N8`: C7 N8, DD = 0 (R376) -/
  | cmpbAOff (n : Byte)
  /-- `CMP A,obj`: wp C2 (R372) -/
  | cmpAObj (o : WObj)
  /-- `CMPB A,obj`: bp C2 (R376) -/
  | cmpbAObj (o : BObj)
  /-- `CMP obj,A`: wp C1 (R373) -/
  | cmpObjA (o : WObj)
  /-- `CMPB obj,A`: bp C1 (R377) -/
  | cmpbObjA (o : BObj)
  /-- `CMP obj,off N8`: wp C3 N8 (R374) -/
  | cmpObjOff (o : WObj) (n : Byte)
  /-- `CMPB obj,off N8`: bp C3 N8 (R378) -/
  | cmpbObjOff (o : BObj) (n : Byte)
  /-- `CMP obj,#N16`: wp C0 N_L N_H (R375) -/
  | cmpObjImm (o : WObj) (n : Word)
  /-- `CMPB obj,#N8`: bp C0 N8 (R379) -/
  | cmpbObjImm (o : BObj) (n : Byte)
  /-- `AND A,#N16`: D6 N_L N_H, DD = 1 (R343) -/
  | andAImm (n : Word)
  /-- `ANDB A,#N8`: D6 N8, DD = 0 (R347) -/
  | andbAImm (n : Byte)
  /-- `AND A,erN`: 58+N, DD = 1 (R343) -/
  | andAEr (r : BitVec 2)
  /-- `ANDB A,rN`: 58+N, DD = 0 (R347) -/
  | andbAR (r : BitVec 3)
  /-- `AND A,off N8`: D7 N8, DD = 1 (R343) -/
  | andAOff (n : Byte)
  /-- `ANDB A,off N8`: D7 N8, DD = 0 (R347) -/
  | andbAOff (n : Byte)
  /-- `AND A,obj`: wp D2 (R343) -/
  | andAObj (o : WObj)
  /-- `ANDB A,obj`: bp D2 (R347) -/
  | andbAObj (o : BObj)
  /-- `AND obj,A`: wp D1 (R344) -/
  | andObjA (o : WObj)
  /-- `ANDB obj,A`: bp D1 (R348) -/
  | andbObjA (o : BObj)
  /-- `AND obj,off N8`: wp D3 N8 (R345) -/
  | andObjOff (o : WObj) (n : Byte)
  /-- `ANDB obj,off N8`: bp D3 N8 (R349) -/
  | andbObjOff (o : BObj) (n : Byte)
  /-- `AND obj,#N16`: wp D0 N_L N_H (R346) -/
  | andObjImm (o : WObj) (n : Word)
  /-- `ANDB obj,#N8`: bp D0 N8 (R350) -/
  | andbObjImm (o : BObj) (n : Byte)
  /-- `OR A,#N16`: E6 N_L N_H, DD = 1 (R351) -/
  | orAImm (n : Word)
  /-- `ORB A,#N8`: E6 N8, DD = 0 (R355) -/
  | orbAImm (n : Byte)
  /-- `OR A,erN`: 68+N, DD = 1 (R351) -/
  | orAEr (r : BitVec 2)
  /-- `ORB A,rN`: 68+N, DD = 0 (R355) -/
  | orbAR (r : BitVec 3)
  /-- `OR A,off N8`: E7 N8, DD = 1 (R351) -/
  | orAOff (n : Byte)
  /-- `ORB A,off N8`: E7 N8, DD = 0 (R355) -/
  | orbAOff (n : Byte)
  /-- `OR A,obj`: wp E2 (R351) -/
  | orAObj (o : WObj)
  /-- `ORB A,obj`: bp E2 (R355) -/
  | orbAObj (o : BObj)
  /-- `OR obj,A`: wp E1 (R352) -/
  | orObjA (o : WObj)
  /-- `ORB obj,A`: bp E1 (R356) -/
  | orbObjA (o : BObj)
  /-- `OR obj,off N8`: wp E3 N8 (R353) -/
  | orObjOff (o : WObj) (n : Byte)
  /-- `ORB obj,off N8`: bp E3 N8 (R357) -/
  | orbObjOff (o : BObj) (n : Byte)
  /-- `OR obj,#N16`: wp E0 N_L N_H (R354) -/
  | orObjImm (o : WObj) (n : Word)
  /-- `ORB obj,#N8`: bp E0 N8 (R358) -/
  | orbObjImm (o : BObj) (n : Byte)
  /-- `XOR A,#N16`: F6 N_L N_H, DD = 1 (R359) -/
  | xorAImm (n : Word)
  /-- `XORB A,#N8`: F6 N8, DD = 0 (R363) -/
  | xorbAImm (n : Byte)
  /-- `XOR A,off N8`: F7 N8, DD = 1 (R359) -/
  | xorAOff (n : Byte)
  /-- `XORB A,off N8`: F7 N8, DD = 0 (R363) -/
  | xorbAOff (n : Byte)
  /-- `XOR A,obj`: wp F2 (R359) -/
  | xorAObj (o : WObj)
  /-- `XORB A,obj`: bp F2 (R363) -/
  | xorbAObj (o : BObj)
  /-- `XOR obj,A`: wp F1 (R360) -/
  | xorObjA (o : WObj)
  /-- `XORB obj,A`: bp F1 (R364) -/
  | xorbObjA (o : BObj)
  /-- `XOR obj,off N8`: wp F3 N8 (R361) -/
  | xorObjOff (o : WObj) (n : Byte)
  /-- `XORB obj,off N8`: bp F3 N8 (R365) -/
  | xorbObjOff (o : BObj) (n : Byte)
  /-- `XOR obj,#N16`: wp F0 N_L N_H (R362) -/
  | xorObjImm (o : WObj) (n : Word)
  /-- `XORB obj,#N8`: bp F0 N8 (R366) -/
  | xorbObjImm (o : BObj) (n : Byte)
  /-- `SB obj.bit`: bp 18+n (R393) -/
  | sbBit (o : BObj) (n : BitVec 3)
  /-- `RB obj.bit`: bp 08+n (R394) -/
  | rbBit (o : BObj) (n : BitVec 3)
  /-- `MB C,obj.bit`: bp 28+n (R395) -/
  | mbCBit (o : BObj) (n : BitVec 3)
  /-- `MB obj.bit,C`: bp 38+n (R396) -/
  | mbBitC (o : BObj) (n : BitVec 3)
  /-- `SBR obj`: bp 11 (R397) -/
  | sbrObj (o : BObj)
  /-- `RBR obj`: bp 12 (R398) -/
  | rbrObj (o : BObj)
  /-- `TBR obj`: bp 13 (R399) -/
  | tbrObj (o : BObj)
  /-- `MBR C,obj`: bp 21 (R400) -/
  | mbrCObj (o : BObj)
  /-- `MBR obj,C`: bp 20 (R401) -/
  | mbrObjC (o : BObj)
  /-- `SJ address`: CB rel8 (R412) -/
  | sj (rel : Byte)
  /-- `J address`: 03 ad_L ad_H (R413) -/
  | jAddr (ad : Word)
  /-- `J [obj]`: wp 22 (R414) -/
  | jObj (o : WObj)
  /-- `JC GT,address`: C8 rel8 (R419) -/
  | jcGt (rel : Byte)
  /-- `JC EQ,address`: C9 rel8 (R419) -/
  | jcEq (rel : Byte)
  /-- `JC LT,address`: CA rel8 (R419) -/
  | jcLt (rel : Byte)
  /-- `JC GE,address`: CD rel8 (R419) -/
  | jcGe (rel : Byte)
  /-- `JC NE,address`: CE rel8 (R419) -/
  | jcNe (rel : Byte)
  /-- `JC LE,address`: CF rel8 (R419) -/
  | jcLe (rel : Byte)
  /-- `JBS off N8.bit,address`: E8+n N8 rel8 (R417) -/
  | jbs (bit : BitVec 3) (n : Byte) (rel : Byte)
  /-- `JBR off N8.bit,address`: D8+n N8 rel8 (R418) -/
  | jbr (bit : BitVec 3) (n : Byte) (rel : Byte)
  /-- `JRNZ DP,address`: 30 rel8 (R421) -/
  | jrnz (rel : Byte)
  /-- `SCAL address`: 31 rel8 (R422) -/
  | scal (rel : Byte)
  /-- `CAL address`: 32 ad_L ad_H (R423) -/
  | calAddr (ad : Word)
  /-- `CAL [obj]`: wp 23 (R424) -/
  | calObj (o : WObj)
  /-- `VCAL table-address`: 10+n (R426) -/
  | vcal (n : BitVec 3)
  /-- prefix row `word_prefix__erN`: code 44+N and a byte `sfx` that with it is no instruction (R114, R135) -/
  | wpEr (r : BitVec 2) (sfx : Byte)
  /-- prefix row `word_prefix__X1`: code 90 and a byte `sfx` that with it is no instruction (R112, R135) -/
  | wpX1 (sfx : Byte)
  /-- prefix row `word_prefix__X2`: code 91 and a byte `sfx` that with it is no instruction (R112, R135) -/
  | wpX2 (sfx : Byte)
  /-- prefix row `word_prefix__DP`: code 92 and a byte `sfx` that with it is no instruction (R112, R135) -/
  | wpDp (sfx : Byte)
  /-- prefix row `word_prefix__SSP`: code A0 and a byte `sfx` that with it is no instruction (R115, R135) -/
  | wpSsp (sfx : Byte)
  /-- prefix row `word_prefix__USP`: code A1 and a byte `sfx` that with it is no instruction (R112, R135) -/
  | wpUsp (sfx : Byte)
  /-- prefix row `word_prefix__LRB`: code A4 and a byte `sfx` that with it is no instruction (R113, R135) -/
  | wpLrb (sfx : Byte)
  /-- prefix row `word_prefix__N16_X1`: code B0 N_L N_H and a byte `sfx` that with it is no instruction (R120, R135) -/
  | wpX1Ind (n : Word) (sfx : Byte)
  /-- prefix row `word_prefix__N16_X2`: code B1 N_L N_H and a byte `sfx` that with it is no instruction (R120, R135) -/
  | wpX2Ind (n : Word) (sfx : Byte)
  /-- prefix row `word_prefix___DP`: code B2 and a byte `sfx` that with it is no instruction (R118, R135) -/
  | wpDpInd (sfx : Byte)
  /-- prefix row `word_prefix___N8_USP`: code B3 N8 and a byte `sfx` that with it is no instruction (R119, R135) -/
  | wpUspInd (n : Byte) (sfx : Byte)
  /-- prefix row `word_prefix__off_N8`: code B4 N8 and a byte `sfx` that with it is no instruction (R116, R135) -/
  | wpOff (n : Byte) (sfx : Byte)
  /-- prefix row `word_prefix__N8`: code B5 N8 and a byte `sfx` that with it is no instruction (R117, R135) -/
  | wpZp (n : Byte) (sfx : Byte)
  /-- prefix row `byte_prefix__rN`: code 20+N and a byte `sfx` that with it is no instruction (R114, R135) -/
  | bpR (r : BitVec 3) (sfx : Byte)
  /-- prefix row `byte_prefix__PSWH`: code A2 and a byte `sfx` that with it is no instruction (R113, R135) -/
  | bpPswh (sfx : Byte)
  /-- prefix row `byte_prefix__PSWL`: code A3 and a byte `sfx` that with it is no instruction (R113, R135) -/
  | bpPswl (sfx : Byte)
  /-- prefix row `byte_prefix__N16_X1`: code C0 N_L N_H and a byte `sfx` that with it is no instruction (R120, R135) -/
  | bpX1Ind (n : Word) (sfx : Byte)
  /-- prefix row `byte_prefix__N16_X2`: code C1 N_L N_H and a byte `sfx` that with it is no instruction (R120, R135) -/
  | bpX2Ind (n : Word) (sfx : Byte)
  /-- prefix row `byte_prefix___DP`: code C2 and a byte `sfx` that with it is no instruction (R118, R135) -/
  | bpDpInd (sfx : Byte)
  /-- prefix row `byte_prefix___N8_USP`: code C3 N8 and a byte `sfx` that with it is no instruction (R119, R135) -/
  | bpUspInd (n : Byte) (sfx : Byte)
  /-- prefix row `byte_prefix__off_N8`: code C4 N8 and a byte `sfx` that with it is no instruction (R116, R135) -/
  | bpOff (n : Byte) (sfx : Byte)
  /-- prefix row `byte_prefix__N8`: code C5 N8 and a byte `sfx` that with it is no instruction (R117, R135) -/
  | bpZp (n : Byte) (sfx : Byte)
  /-- the `(illegal)` rows: a first byte no page assigns and no OP_ parameter claims (R135) -/
  | illegal (b : Byte)
  /-- `L A,X1`: 40 (R151) -/
  | lX1
  /-- `L A,X2`: 41 (R151) -/
  | lX2
  /-- `L A,DP`: 42 (R151) -/
  | lDp
  /-- `L A,[DP]`: E2 (R151) -/
  | lDpInd
  /-- `LB A,[DP]`: F2 (R152) -/
  | lbDpInd
  /-- `ST A,[DP]`: D2, DD = 1 (R153) -/
  | stDpInd
  /-- `STB A,[DP]`: D2, DD = 0 (R154) -/
  | stbDpInd
  /-- `MOV X1,A`: 50 (R162) -/
  | movX1A
  /-- `MOV X2,A`: 51 (R162) -/
  | movX2A
  /-- `MOV DP,A`: 52 (R162) -/
  | movDpA
  /-- `CLR A`: F9 (R205) -/
  | clrA
  /-- `CLRB A`: FA (R207) -/
  | clrbA
  /-- `SWAP`: 83, DD = 1 (R210) -/
  | swap
  /-- `SWAPB`: 83, DD = 0 (R211) -/
  | swapb
  /-- `PUSHS A`: 55 (R221) -/
  | pushsA
  /-- `PUSHS LRB`: 54 (R222) -/
  | pushsLrb
  /-- `POPS A`: 65 (R223) -/
  | popsA
  /-- `POPS LRB`: 64 (R224) -/
  | popsLrb
  /-- `ROL A`: 33, DD = 1 (R231) -/
  | rolA
  /-- `ROLB A`: 33, DD = 0 (R231) -/
  | rolbA
  /-- `ROR A`: 43, DD = 1 (R234) -/
  | rorA
  /-- `RORB A`: 43, DD = 0 (R234) -/
  | rorbA
  /-- `SLL A`: 53, DD = 1 (R237) -/
  | sllA
  /-- `SLLB A`: 53, DD = 0 (R237) -/
  | sllbA
  /-- `SRL A`: 63, DD = 1 (R240) -/
  | srlA
  /-- `SRLB A`: 63, DD = 0 (R240) -/
  | srlbA
  /-- `SRA A`: 73, DD = 1 (R243) -/
  | sraA
  /-- `SRAB A`: 73, DD = 0 (R243) -/
  | srabA
  /-- `INC X1`: 70 (R261) -/
  | incX1
  /-- `INC X2`: 71 (R261) -/
  | incX2
  /-- `INC DP`: 72 (R261) -/
  | incDp
  /-- `INC LRB`: FD (R262) -/
  | incLrb
  /-- `DEC X1`: 80 (R265) -/
  | decX1
  /-- `DEC X2`: 81 (R265) -/
  | decX2
  /-- `DEC DP`: 82 (R265) -/
  | decDp
  /-- `DEC LRB`: FE (R266) -/
  | decLrb
  /-- `MUL`: 90 35 (R300) -/
  | mul
  /-- `MULB`: A2 34 (R301) -/
  | mulb
  /-- `DIV`: 90 37 (R302) -/
  | div
  /-- `DIVB`: A2 36 (R303) -/
  | divb
  /-- `DAA`: 93 (R381) -/
  | daa
  /-- `DAS`: 94 (R382) -/
  | das
  /-- `EXTND`: F8 (R384) -/
  | extnd
  /-- `RT`: 01 (R427) -/
  | rt
  /-- `RTI`: 02 (R428) -/
  | rti
  /-- `SC`: 85 (R441) -/
  | sc
  /-- `RC`: 95 (R442) -/
  | rc
  /-- `BRK`: FF (R443) -/
  | brk
  /-- `NOP`: 00 (R444) -/
  | nop
deriving DecidableEq, Repr

end Sys2Proof
end

