-- ==== Sys2Proof/Machine/Objects.lean ====
section
/-! DEFINITION. The addressing objects as operand prefixes (spec/30_encoding.md R124) and the lists of objects the
instruction pages accept (R128). -/

namespace Sys2Proof

/-- The bytes of a word prefix (R124). -/
def WObj.prefixBytes : WObj → List Byte
  | .er n => [0x44#8 ||| n.setWidth 8]
  | .x1 => [0x90#8]
  | .x2 => [0x91#8]
  | .dp => [0x92#8]
  | .ssp => [0xA0#8]
  | .usp => [0xA1#8]
  | .lrb => [0xA4#8]
  | .x1Ind n => [0xB0#8, loByte n, hiByte n]
  | .x2Ind n => [0xB1#8, loByte n, hiByte n]
  | .dpInd => [0xB2#8]
  | .uspInd n => [0xB3#8, n]
  | .off n => [0xB4#8, n]
  | .zp n => [0xB5#8, n]

/-- The bytes of a byte prefix (R124). -/
def BObj.prefixBytes : BObj → List Byte
  | .r n => [0x20#8 ||| n.setWidth 8]
  | .pswh => [0xA2#8]
  | .pswl => [0xA3#8]
  | .x1Ind n => [0xC0#8, loByte n, hiByte n]
  | .x2Ind n => [0xC1#8, loByte n, hiByte n]
  | .dpInd => [0xC2#8]
  | .uspInd n => [0xC3#8, n]
  | .off n => [0xC4#8, n]
  | .zp n => [0xC5#8, n]

/-- How many bytes a word prefix takes (R107). -/
def WObj.prefixLen : WObj → Nat
  | .x1Ind _ | .x2Ind _ => 3
  | .uspInd _ | .off _ | .zp _ => 2
  | _ => 1

/-- How many bytes a byte prefix takes (R107). -/
def BObj.prefixLen : BObj → Nat
  | .x1Ind _ | .x2Ind _ => 3
  | .uspInd _ | .off _ | .zp _ => 2
  | _ => 1

/-- All thirteen word objects (R128). -/
def WObj.isAny (_ : WObj) : Bool := true

/-- The objects of `MOV obj,A` (spec/40_data_transfer.md R162): DP, X1 and X2 have codes of their own. -/
def WObj.isMovA : WObj → Bool
  | .x1 | .x2 | .dp => false
  | _ => true

/-- The objects of `MOV obj,#N16` (R163), `INC obj` and `DEC obj` (spec/43_inc_dec.md R261, R265): DP, X1, X2 and LRB
have codes of their own. -/
def WObj.isStep : WObj → Bool
  | .x1 | .x2 | .dp | .lrb => false
  | _ => true

/-- The objects of a prefixed `A,obj` form of the ALU families but XOR (spec/45_arithmetic.md R292): erN has its
one-byte code; `off N8` is accepted beside its short form (spec/90_conflicts.md C14, C16; log entry 28). -/
def WObj.isAluA : WObj → Bool
  | .er _ => false
  | _ => true

/-- The pointers of `N*16[obj]` (spec/44_rom_table.md R271). -/
def WObj.isBase : WObj → Bool
  | .dp | .x1 | .x2 | .usp | .off _ | .zp _ => true
  | _ => false

/-- The X1 prefix byte of the special pairs (R125). -/
def WObj.isX1 : WObj → Bool
  | .x1 => true
  | _ => false

/-- All nine byte objects (R128). -/
def BObj.isAny (_ : BObj) : Bool := true

/-- The byte objects but rN: those of `MOVB obj,#N8`, `INCB obj`, `DECB obj` and the prefixed `A,obj` forms of the ALU
families but XORB, where rN has a code of its own (R128, spec/45_arithmetic.md R292). -/
def BObj.notR : BObj → Bool
  | .r _ => false
  | _ => true

/-- The PSWH prefix byte of the special pairs (R126). -/
def BObj.isPswh : BObj → Bool
  | .pswh => true
  | _ => false

/-- A word prefix followed by a byte that makes no instruction with it (R135). -/
def WObj.unpaired (o : WObj) (sfx : Byte) : Instr :=
  match o with
  | .er n => .wpEr n sfx
  | .x1 => .wpX1 sfx
  | .x2 => .wpX2 sfx
  | .dp => .wpDp sfx
  | .ssp => .wpSsp sfx
  | .usp => .wpUsp sfx
  | .lrb => .wpLrb sfx
  | .x1Ind n => .wpX1Ind n sfx
  | .x2Ind n => .wpX2Ind n sfx
  | .dpInd => .wpDpInd sfx
  | .uspInd n => .wpUspInd n sfx
  | .off n => .wpOff n sfx
  | .zp n => .wpZp n sfx

/-- A byte prefix followed by a byte that makes no instruction with it (R135). -/
def BObj.unpaired (o : BObj) (sfx : Byte) : Instr :=
  match o with
  | .r n => .bpR n sfx
  | .pswh => .bpPswh sfx
  | .pswl => .bpPswl sfx
  | .x1Ind n => .bpX1Ind n sfx
  | .x2Ind n => .bpX2Ind n sfx
  | .dpInd => .bpDpInd sfx
  | .uspInd n => .bpUspInd n sfx
  | .off n => .bpOff n sfx
  | .zp n => .bpZp n sfx

end Sys2Proof
end

