-- ==== Sys2Proof/Machine/Encoding.lean ====
section
/-! DEFINITION. The encoding tables: the first-byte map (spec/30_encoding.md R127), the codes that DD chooses between
(R108), the codes that are parameters (spec/00_scope.md R9) and the suffix tables (R125, R126, R128). -/

namespace Sys2Proof

/-- What decoding a byte string gives. -/
inductive Decoded where
  /-- an instruction of `len` bytes -/
  | instr (i : Instr) (len : Nat)
  /-- a shared code naming er4..er7 (R108) -/
  | noWordRegister
  /-- the bytes end before the instruction does -/
  | incomplete
deriving DecidableEq, Repr

/-- What follows a code byte, and the instruction it makes (R103: N_L before N_H). -/
inductive Tail where
  | none (i : Instr)
  | byte (f : Byte → Instr)
  | word (f : Word → Instr)
  | bytes (f : Byte → Byte → Instr)
  | noRegister

/-- The instruction a tail makes from the bytes after its code, which end at length `len`. -/
def Tail.read (len : Nat) (bs : List Byte) : Tail → Decoded
  | .none i => .instr i len
  | .byte f =>
    match bs with
    | b :: _ => .instr (f b) (len + 1)
    | [] => .incomplete
  | .word f =>
    match bs with
    | lo :: hi :: _ => .instr (f (mkWord hi lo)) (len + 2)
    | _ => .incomplete
  | .bytes f =>
    match bs with
    | b :: c :: _ => .instr (f b c) (len + 2)
    | _ => .incomplete
  | .noRegister => .noWordRegister

/-- A row of the first-byte map: it matches a byte that is `code` under `mask` (R129). -/
structure CodeRow where
  mask : Byte
  code : Byte
  make : Byte → Tail

/-- Whether a row matches a byte. -/
def CodeRow.hits (r : CodeRow) (b : Byte) : Bool := b &&& r.mask == r.code

/-- A row of a suffix table: it matches a suffix that is `code` under `mask`, after the objects its page lists. -/
structure SuffixRow (ω : Type) where
  mask : Byte
  code : Byte
  takes : ω → Bool
  make : ω → Byte → Tail

/-- Whether a row matches an object and a suffix byte. -/
def SuffixRow.hits {ω : Type} (r : SuffixRow ω) (o : ω) (b : Byte) : Bool := b &&& r.mask == r.code && r.takes o

/-- The first bytes that are an instruction whatever DD is (R127), part 1 of 2. -/
def plainRows1 : List CodeRow :=
  [⟨0xFF#8, 0x67#8, fun _ => .word fun n => .lImm n⟩,
   ⟨0xFC#8, 0x34#8, fun b => .none (.lEr (b.setWidth 2))⟩,
   ⟨0xFF#8, 0xE0#8, fun _ => .word fun n => .lX1Ind n⟩,
   ⟨0xFF#8, 0xE1#8, fun _ => .word fun n => .lX2Ind n⟩,
   ⟨0xFF#8, 0xE3#8, fun _ => .byte fun n => .lUspInd n⟩,
   ⟨0xFF#8, 0xE4#8, fun _ => .byte fun n => .lOff n⟩,
   ⟨0xFF#8, 0xE5#8, fun _ => .byte fun n => .lZp n⟩,
   ⟨0xFF#8, 0x77#8, fun _ => .byte fun n => .lbImm n⟩,
   ⟨0xF8#8, 0x78#8, fun b => .none (.lbR (b.setWidth 3))⟩,
   ⟨0xFF#8, 0xF0#8, fun _ => .word fun n => .lbX1Ind n⟩,
   ⟨0xFF#8, 0xF1#8, fun _ => .word fun n => .lbX2Ind n⟩,
   ⟨0xFF#8, 0xF3#8, fun _ => .byte fun n => .lbUspInd n⟩,
   ⟨0xFF#8, 0xF4#8, fun _ => .byte fun n => .lbOff n⟩,
   ⟨0xFF#8, 0xF5#8, fun _ => .byte fun n => .lbZp n⟩,
   ⟨0xFF#8, 0x60#8, fun _ => .word fun n => .movX1Imm n⟩,
   ⟨0xFF#8, 0x61#8, fun _ => .word fun n => .movX2Imm n⟩,
   ⟨0xFF#8, 0x62#8, fun _ => .word fun n => .movDpImm n⟩,
   ⟨0xFF#8, 0x57#8, fun _ => .word fun n => .movLrbImm n⟩,
   ⟨0xF8#8, 0x98#8, fun b => .byte fun n => .movbRImm (b.setWidth 3) n⟩,
   ⟨0xFF#8, 0x84#8, fun _ => .byte fun n => .xnblAOff n⟩,
   ⟨0xF8#8, 0xA8#8, fun b => .none (.incbR (b.setWidth 3))⟩,
   ⟨0xF8#8, 0xB8#8, fun b => .none (.decbR (b.setWidth 3))⟩,
   ⟨0xFF#8, 0xCB#8, fun _ => .byte fun rel => .sj rel⟩,
   ⟨0xFF#8, 0x03#8, fun _ => .word fun ad => .jAddr ad⟩,
   ⟨0xFF#8, 0xC8#8, fun _ => .byte fun rel => .jcGt rel⟩,
   ⟨0xFF#8, 0xC9#8, fun _ => .byte fun rel => .jcEq rel⟩,
   ⟨0xFF#8, 0xCA#8, fun _ => .byte fun rel => .jcLt rel⟩,
   ⟨0xFF#8, 0xCD#8, fun _ => .byte fun rel => .jcGe rel⟩,
   ⟨0xFF#8, 0xCE#8, fun _ => .byte fun rel => .jcNe rel⟩,
   ⟨0xFF#8, 0xCF#8, fun _ => .byte fun rel => .jcLe rel⟩,
   ⟨0xF8#8, 0xE8#8, fun b => .bytes fun n rel => .jbs (b.setWidth 3) n rel⟩,
   ⟨0xF8#8, 0xD8#8, fun b => .bytes fun n rel => .jbr (b.setWidth 3) n rel⟩,
   ⟨0xFF#8, 0x30#8, fun _ => .byte fun rel => .jrnz rel⟩,
   ⟨0xFF#8, 0x32#8, fun _ => .word fun ad => .calAddr ad⟩,
   ⟨0xF8#8, 0x10#8, fun b => .none (.vcal (b.setWidth 3))⟩,
   ⟨0xFF#8, 0x40#8, fun _ => .none .lX1⟩,
   ⟨0xFF#8, 0x41#8, fun _ => .none .lX2⟩,
   ⟨0xFF#8, 0x42#8, fun _ => .none .lDp⟩,
   ⟨0xFF#8, 0xE2#8, fun _ => .none .lDpInd⟩,
   ⟨0xFF#8, 0xF2#8, fun _ => .none .lbDpInd⟩]

/-- The first bytes that are an instruction whatever DD is (R127), part 2 of 2. -/
def plainRows2 : List CodeRow :=
  [⟨0xFF#8, 0x50#8, fun _ => .none .movX1A⟩,
   ⟨0xFF#8, 0x51#8, fun _ => .none .movX2A⟩,
   ⟨0xFF#8, 0x52#8, fun _ => .none .movDpA⟩,
   ⟨0xFF#8, 0xF9#8, fun _ => .none .clrA⟩,
   ⟨0xFF#8, 0xFA#8, fun _ => .none .clrbA⟩,
   ⟨0xFF#8, 0x54#8, fun _ => .none .pushsLrb⟩,
   ⟨0xFF#8, 0x70#8, fun _ => .none .incX1⟩,
   ⟨0xFF#8, 0x71#8, fun _ => .none .incX2⟩,
   ⟨0xFF#8, 0x72#8, fun _ => .none .incDp⟩,
   ⟨0xFF#8, 0x80#8, fun _ => .none .decX1⟩,
   ⟨0xFF#8, 0x81#8, fun _ => .none .decX2⟩,
   ⟨0xFF#8, 0x82#8, fun _ => .none .decDp⟩,
   ⟨0xFF#8, 0x93#8, fun _ => .none .daa⟩,
   ⟨0xFF#8, 0x94#8, fun _ => .none .das⟩,
   ⟨0xFF#8, 0xF8#8, fun _ => .none .extnd⟩,
   ⟨0xFF#8, 0x01#8, fun _ => .none .rt⟩,
   ⟨0xFF#8, 0x02#8, fun _ => .none .rti⟩,
   ⟨0xFF#8, 0x85#8, fun _ => .none .sc⟩,
   ⟨0xFF#8, 0x95#8, fun _ => .none .rc⟩,
   ⟨0xFF#8, 0xFF#8, fun _ => .none .brk⟩,
   ⟨0xFF#8, 0x00#8, fun _ => .none .nop⟩]

/-- The first bytes that are an instruction whatever DD is (R127). -/
def plainRows : List CodeRow := plainRows1 ++ plainRows2

/-- The shared codes as the word instructions they are when DD = 1 (R108); x8+N and 88+N with N = 4..7 name no register. -/
def wordRows : List CodeRow :=
  [⟨0xFC#8, 0x88#8, fun b => .none (.stEr (b.setWidth 2))⟩,
   ⟨0xFC#8, 0x8C#8, fun _ => .noRegister⟩,
   ⟨0xFF#8, 0xD0#8, fun _ => .word fun n => .stX1Ind n⟩,
   ⟨0xFF#8, 0xD1#8, fun _ => .word fun n => .stX2Ind n⟩,
   ⟨0xFF#8, 0xD3#8, fun _ => .byte fun n => .stUspInd n⟩,
   ⟨0xFF#8, 0xD4#8, fun _ => .byte fun n => .stOff n⟩,
   ⟨0xFF#8, 0xD5#8, fun _ => .byte fun n => .stZp n⟩,
   ⟨0xFF#8, 0x86#8, fun _ => .word fun n => .addAImm n⟩,
   ⟨0xFC#8, 0x08#8, fun b => .none (.addAEr (b.setWidth 2))⟩,
   ⟨0xFC#8, 0x0C#8, fun _ => .noRegister⟩,
   ⟨0xFF#8, 0x87#8, fun _ => .byte fun n => .addAOff n⟩,
   ⟨0xFF#8, 0x96#8, fun _ => .word fun n => .adcAImm n⟩,
   ⟨0xFC#8, 0x18#8, fun b => .none (.adcAEr (b.setWidth 2))⟩,
   ⟨0xFC#8, 0x1C#8, fun _ => .noRegister⟩,
   ⟨0xFF#8, 0x97#8, fun _ => .byte fun n => .adcAOff n⟩,
   ⟨0xFF#8, 0xA6#8, fun _ => .word fun n => .subAImm n⟩,
   ⟨0xFC#8, 0x28#8, fun b => .none (.subAEr (b.setWidth 2))⟩,
   ⟨0xFC#8, 0x2C#8, fun _ => .noRegister⟩,
   ⟨0xFF#8, 0xA7#8, fun _ => .byte fun n => .subAOff n⟩,
   ⟨0xFF#8, 0xB6#8, fun _ => .word fun n => .sbcAImm n⟩,
   ⟨0xFC#8, 0x38#8, fun b => .none (.sbcAEr (b.setWidth 2))⟩,
   ⟨0xFC#8, 0x3C#8, fun _ => .noRegister⟩,
   ⟨0xFF#8, 0xB7#8, fun _ => .byte fun n => .sbcAOff n⟩,
   ⟨0xFF#8, 0xC6#8, fun _ => .word fun n => .cmpAImm n⟩,
   ⟨0xFC#8, 0x48#8, fun b => .none (.cmpAEr (b.setWidth 2))⟩,
   ⟨0xFC#8, 0x4C#8, fun _ => .noRegister⟩,
   ⟨0xFF#8, 0xC7#8, fun _ => .byte fun n => .cmpAOff n⟩,
   ⟨0xFF#8, 0xD6#8, fun _ => .word fun n => .andAImm n⟩,
   ⟨0xFC#8, 0x58#8, fun b => .none (.andAEr (b.setWidth 2))⟩,
   ⟨0xFC#8, 0x5C#8, fun _ => .noRegister⟩,
   ⟨0xFF#8, 0xD7#8, fun _ => .byte fun n => .andAOff n⟩,
   ⟨0xFF#8, 0xE6#8, fun _ => .word fun n => .orAImm n⟩,
   ⟨0xFC#8, 0x68#8, fun b => .none (.orAEr (b.setWidth 2))⟩,
   ⟨0xFC#8, 0x6C#8, fun _ => .noRegister⟩,
   ⟨0xFF#8, 0xE7#8, fun _ => .byte fun n => .orAOff n⟩,
   ⟨0xFF#8, 0xF6#8, fun _ => .word fun n => .xorAImm n⟩,
   ⟨0xFF#8, 0xF7#8, fun _ => .byte fun n => .xorAOff n⟩,
   ⟨0xFF#8, 0xD2#8, fun _ => .none .stDpInd⟩,
   ⟨0xFF#8, 0x83#8, fun _ => .none .swap⟩,
   ⟨0xFF#8, 0x43#8, fun _ => .none .rorA⟩,
   ⟨0xFF#8, 0x53#8, fun _ => .none .sllA⟩,
   ⟨0xFF#8, 0x73#8, fun _ => .none .sraA⟩]

/-- The shared codes as the byte instructions they are when DD = 0 (R108). -/
def byteRows : List CodeRow :=
  [⟨0xF8#8, 0x88#8, fun b => .none (.stbR (b.setWidth 3))⟩,
   ⟨0xFF#8, 0xD0#8, fun _ => .word fun n => .stbX1Ind n⟩,
   ⟨0xFF#8, 0xD1#8, fun _ => .word fun n => .stbX2Ind n⟩,
   ⟨0xFF#8, 0xD3#8, fun _ => .byte fun n => .stbUspInd n⟩,
   ⟨0xFF#8, 0xD4#8, fun _ => .byte fun n => .stbOff n⟩,
   ⟨0xFF#8, 0xD5#8, fun _ => .byte fun n => .stbZp n⟩,
   ⟨0xFF#8, 0x86#8, fun _ => .byte fun n => .addbAImm n⟩,
   ⟨0xF8#8, 0x08#8, fun b => .none (.addbAR (b.setWidth 3))⟩,
   ⟨0xFF#8, 0x87#8, fun _ => .byte fun n => .addbAOff n⟩,
   ⟨0xFF#8, 0x96#8, fun _ => .byte fun n => .adcbAImm n⟩,
   ⟨0xF8#8, 0x18#8, fun b => .none (.adcbAR (b.setWidth 3))⟩,
   ⟨0xFF#8, 0x97#8, fun _ => .byte fun n => .adcbAOff n⟩,
   ⟨0xFF#8, 0xA6#8, fun _ => .byte fun n => .subbAImm n⟩,
   ⟨0xF8#8, 0x28#8, fun b => .none (.subbAR (b.setWidth 3))⟩,
   ⟨0xFF#8, 0xA7#8, fun _ => .byte fun n => .subbAOff n⟩,
   ⟨0xFF#8, 0xB6#8, fun _ => .byte fun n => .sbcbAImm n⟩,
   ⟨0xF8#8, 0x38#8, fun b => .none (.sbcbAR (b.setWidth 3))⟩,
   ⟨0xFF#8, 0xB7#8, fun _ => .byte fun n => .sbcbAOff n⟩,
   ⟨0xFF#8, 0xC6#8, fun _ => .byte fun n => .cmpbAImm n⟩,
   ⟨0xF8#8, 0x48#8, fun b => .none (.cmpbAR (b.setWidth 3))⟩,
   ⟨0xFF#8, 0xC7#8, fun _ => .byte fun n => .cmpbAOff n⟩,
   ⟨0xFF#8, 0xD6#8, fun _ => .byte fun n => .andbAImm n⟩,
   ⟨0xF8#8, 0x58#8, fun b => .none (.andbAR (b.setWidth 3))⟩,
   ⟨0xFF#8, 0xD7#8, fun _ => .byte fun n => .andbAOff n⟩,
   ⟨0xFF#8, 0xE6#8, fun _ => .byte fun n => .orbAImm n⟩,
   ⟨0xF8#8, 0x68#8, fun b => .none (.orbAR (b.setWidth 3))⟩,
   ⟨0xFF#8, 0xE7#8, fun _ => .byte fun n => .orbAOff n⟩,
   ⟨0xFF#8, 0xF6#8, fun _ => .byte fun n => .xorbAImm n⟩,
   ⟨0xFF#8, 0xF7#8, fun _ => .byte fun n => .xorbAOff n⟩,
   ⟨0xFF#8, 0xD2#8, fun _ => .none .stbDpInd⟩,
   ⟨0xFF#8, 0x83#8, fun _ => .none .swapb⟩,
   ⟨0xFF#8, 0x43#8, fun _ => .none .rorbA⟩,
   ⟨0xFF#8, 0x53#8, fun _ => .none .sllbA⟩,
   ⟨0xFF#8, 0x73#8, fun _ => .none .srabA⟩]

/-- The first-byte map under a value of DD (R127, R108). -/
def codeRows (dd : Bool) : List CodeRow := plainRows ++ bif dd then wordRows else byteRows

/-- The word suffix table with the special pairs of the X1 prefix (R125, R128), part 1 of 2. -/
def wordSuffixRows1 : List (SuffixRow WObj) :=
  [⟨0xFF#8, 0x99#8, WObj.isAny, fun o _ => .none (.movAObj o)⟩,
   ⟨0xFF#8, 0x8A#8, WObj.isMovA, fun o _ => .none (.movObjA o)⟩,
   ⟨0xFF#8, 0x98#8, WObj.isStep, fun o _ => .word fun n => .movObjImm o n⟩,
   ⟨0xFF#8, 0x78#8, WObj.isAny, fun o _ => .none (.movX1Obj o)⟩,
   ⟨0xFF#8, 0x79#8, WObj.isAny, fun o _ => .none (.movX2Obj o)⟩,
   ⟨0xFF#8, 0x7A#8, WObj.isAny, fun o _ => .none (.movDpObj o)⟩,
   ⟨0xFF#8, 0x7B#8, WObj.isAny, fun o _ => .none (.movUspObj o)⟩,
   ⟨0xFF#8, 0x7E#8, WObj.isAny, fun o _ => .none (.movSspObj o)⟩,
   ⟨0xFF#8, 0x7F#8, WObj.isAny, fun o _ => .none (.movLrbObj o)⟩,
   ⟨0xFC#8, 0x48#8, WObj.isAny, fun o b => .none (.movErObj (b.setWidth 2) o)⟩,
   ⟨0xFF#8, 0x7C#8, WObj.isAny, fun o _ => .byte fun n => .movOffObj n o⟩,
   ⟨0xFF#8, 0x7D#8, WObj.isAny, fun o _ => .none (.movPswObj o)⟩,
   ⟨0xFF#8, 0x15#8, WObj.isAny, fun o _ => .none (.clrObj o)⟩,
   ⟨0xFF#8, 0x10#8, WObj.isAny, fun o _ => .none (.xchgAObj o)⟩,
   ⟨0xFF#8, 0xB7#8, WObj.isAny, fun o _ => .none (.rolObj o)⟩,
   ⟨0xFF#8, 0xC7#8, WObj.isAny, fun o _ => .none (.rorObj o)⟩,
   ⟨0xFF#8, 0xD7#8, WObj.isAny, fun o _ => .none (.sllObj o)⟩,
   ⟨0xFF#8, 0xE7#8, WObj.isAny, fun o _ => .none (.srlObj o)⟩,
   ⟨0xFF#8, 0xF7#8, WObj.isAny, fun o _ => .none (.sraObj o)⟩,
   ⟨0xFF#8, 0x16#8, WObj.isStep, fun o _ => .none (.incObj o)⟩,
   ⟨0xFF#8, 0x17#8, WObj.isStep, fun o _ => .none (.decObj o)⟩,
   ⟨0xFF#8, 0x9C#8, WObj.isX1, fun _ _ => .word fun n => .lcDirect n⟩,
   ⟨0xFF#8, 0xA8#8, WObj.isAny, fun o _ => .none (.lcInd o)⟩,
   ⟨0xFF#8, 0xA9#8, WObj.isBase, fun o _ => .word fun n => .lcBased o n⟩,
   ⟨0xFF#8, 0x9D#8, WObj.isX1, fun _ _ => .word fun n => .lcbDirect n⟩,
   ⟨0xFF#8, 0xAA#8, WObj.isAny, fun o _ => .none (.lcbInd o)⟩,
   ⟨0xFF#8, 0xAB#8, WObj.isBase, fun o _ => .word fun n => .lcbBased o n⟩,
   ⟨0xFF#8, 0x9E#8, WObj.isX1, fun _ _ => .word fun n => .cmpcDirect n⟩,
   ⟨0xFF#8, 0xAC#8, WObj.isAny, fun o _ => .none (.cmpcInd o)⟩,
   ⟨0xFF#8, 0xAD#8, WObj.isBase, fun o _ => .word fun n => .cmpcBased o n⟩,
   ⟨0xFF#8, 0x9F#8, WObj.isX1, fun _ _ => .word fun n => .cmpcbDirect n⟩,
   ⟨0xFF#8, 0xAE#8, WObj.isAny, fun o _ => .none (.cmpcbInd o)⟩,
   ⟨0xFF#8, 0xAF#8, WObj.isBase, fun o _ => .word fun n => .cmpcbBased o n⟩,
   ⟨0xFF#8, 0x82#8, WObj.isAluA, fun o _ => .none (.addAObj o)⟩,
   ⟨0xFF#8, 0x81#8, WObj.isAny, fun o _ => .none (.addObjA o)⟩,
   ⟨0xFF#8, 0x83#8, WObj.isAny, fun o _ => .byte fun n => .addObjOff o n⟩,
   ⟨0xFF#8, 0x80#8, WObj.isAny, fun o _ => .word fun n => .addObjImm o n⟩,
   ⟨0xFF#8, 0x92#8, WObj.isAluA, fun o _ => .none (.adcAObj o)⟩,
   ⟨0xFF#8, 0x91#8, WObj.isAny, fun o _ => .none (.adcObjA o)⟩,
   ⟨0xFF#8, 0x93#8, WObj.isAny, fun o _ => .byte fun n => .adcObjOff o n⟩]

/-- The word suffix table with the special pairs of the X1 prefix (R125, R128), part 2 of 2. -/
def wordSuffixRows2 : List (SuffixRow WObj) :=
  [⟨0xFF#8, 0x90#8, WObj.isAny, fun o _ => .word fun n => .adcObjImm o n⟩,
   ⟨0xFF#8, 0xA2#8, WObj.isAluA, fun o _ => .none (.subAObj o)⟩,
   ⟨0xFF#8, 0xA1#8, WObj.isAny, fun o _ => .none (.subObjA o)⟩,
   ⟨0xFF#8, 0xA3#8, WObj.isAny, fun o _ => .byte fun n => .subObjOff o n⟩,
   ⟨0xFF#8, 0xA0#8, WObj.isAny, fun o _ => .word fun n => .subObjImm o n⟩,
   ⟨0xFF#8, 0xB2#8, WObj.isAluA, fun o _ => .none (.sbcAObj o)⟩,
   ⟨0xFF#8, 0xB1#8, WObj.isAny, fun o _ => .none (.sbcObjA o)⟩,
   ⟨0xFF#8, 0xB3#8, WObj.isAny, fun o _ => .byte fun n => .sbcObjOff o n⟩,
   ⟨0xFF#8, 0xB0#8, WObj.isAny, fun o _ => .word fun n => .sbcObjImm o n⟩,
   ⟨0xFF#8, 0xC2#8, WObj.isAluA, fun o _ => .none (.cmpAObj o)⟩,
   ⟨0xFF#8, 0xC1#8, WObj.isAny, fun o _ => .none (.cmpObjA o)⟩,
   ⟨0xFF#8, 0xC3#8, WObj.isAny, fun o _ => .byte fun n => .cmpObjOff o n⟩,
   ⟨0xFF#8, 0xC0#8, WObj.isAny, fun o _ => .word fun n => .cmpObjImm o n⟩,
   ⟨0xFF#8, 0xD2#8, WObj.isAluA, fun o _ => .none (.andAObj o)⟩,
   ⟨0xFF#8, 0xD1#8, WObj.isAny, fun o _ => .none (.andObjA o)⟩,
   ⟨0xFF#8, 0xD3#8, WObj.isAny, fun o _ => .byte fun n => .andObjOff o n⟩,
   ⟨0xFF#8, 0xD0#8, WObj.isAny, fun o _ => .word fun n => .andObjImm o n⟩,
   ⟨0xFF#8, 0xE2#8, WObj.isAluA, fun o _ => .none (.orAObj o)⟩,
   ⟨0xFF#8, 0xE1#8, WObj.isAny, fun o _ => .none (.orObjA o)⟩,
   ⟨0xFF#8, 0xE3#8, WObj.isAny, fun o _ => .byte fun n => .orObjOff o n⟩,
   ⟨0xFF#8, 0xE0#8, WObj.isAny, fun o _ => .word fun n => .orObjImm o n⟩,
   ⟨0xFF#8, 0xF2#8, WObj.isAny, fun o _ => .none (.xorAObj o)⟩,
   ⟨0xFF#8, 0xF1#8, WObj.isAny, fun o _ => .none (.xorObjA o)⟩,
   ⟨0xFF#8, 0xF3#8, WObj.isAny, fun o _ => .byte fun n => .xorObjOff o n⟩,
   ⟨0xFF#8, 0xF0#8, WObj.isAny, fun o _ => .word fun n => .xorObjImm o n⟩,
   ⟨0xFF#8, 0x22#8, WObj.isAny, fun o _ => .none (.jObj o)⟩,
   ⟨0xFF#8, 0x23#8, WObj.isAny, fun o _ => .none (.calObj o)⟩,
   ⟨0xFF#8, 0x35#8, WObj.isX1, fun _ _ => .none .mul⟩,
   ⟨0xFF#8, 0x37#8, WObj.isX1, fun _ _ => .none .div⟩]

/-- The word suffix table with the special pairs of the X1 prefix (R125, R128). -/
def wordSuffixRows : List (SuffixRow WObj) := wordSuffixRows1 ++ wordSuffixRows2

/-- The byte suffix table with the special pairs of the PSWH prefix (R126, R128), part 1 of 2. -/
def byteSuffixRows1 : List (SuffixRow BObj) :=
  [⟨0xFF#8, 0x99#8, BObj.isAny, fun o _ => .none (.movbAObj o)⟩,
   ⟨0xFF#8, 0x8A#8, BObj.isAny, fun o _ => .none (.movbObjA o)⟩,
   ⟨0xFF#8, 0x98#8, BObj.notR, fun o _ => .byte fun n => .movbObjImm o n⟩,
   ⟨0xF8#8, 0x48#8, BObj.isAny, fun o b => .none (.movbRObj (b.setWidth 3) o)⟩,
   ⟨0xFF#8, 0x7C#8, BObj.isAny, fun o _ => .byte fun n => .movbOffObj n o⟩,
   ⟨0xFF#8, 0x89#8, BObj.isAny, fun o _ => .none (.movbPswhObj o)⟩,
   ⟨0xFF#8, 0x88#8, BObj.isAny, fun o _ => .none (.movbPswlObj o)⟩,
   ⟨0xFF#8, 0x15#8, BObj.isAny, fun o _ => .none (.clrbObj o)⟩,
   ⟨0xFF#8, 0x10#8, BObj.isAny, fun o _ => .none (.xchgbAObj o)⟩,
   ⟨0xFF#8, 0xB7#8, BObj.isAny, fun o _ => .none (.rolbObj o)⟩,
   ⟨0xFF#8, 0xC7#8, BObj.isAny, fun o _ => .none (.rorbObj o)⟩,
   ⟨0xFF#8, 0xD7#8, BObj.isAny, fun o _ => .none (.sllbObj o)⟩,
   ⟨0xFF#8, 0xE7#8, BObj.isAny, fun o _ => .none (.srlbObj o)⟩,
   ⟨0xFF#8, 0xF7#8, BObj.isAny, fun o _ => .none (.srabObj o)⟩,
   ⟨0xFF#8, 0x16#8, BObj.notR, fun o _ => .none (.incbObj o)⟩,
   ⟨0xFF#8, 0x17#8, BObj.notR, fun o _ => .none (.decbObj o)⟩,
   ⟨0xFF#8, 0x82#8, BObj.notR, fun o _ => .none (.addbAObj o)⟩,
   ⟨0xFF#8, 0x81#8, BObj.isAny, fun o _ => .none (.addbObjA o)⟩,
   ⟨0xFF#8, 0x83#8, BObj.isAny, fun o _ => .byte fun n => .addbObjOff o n⟩,
   ⟨0xFF#8, 0x80#8, BObj.isAny, fun o _ => .byte fun n => .addbObjImm o n⟩,
   ⟨0xFF#8, 0x92#8, BObj.notR, fun o _ => .none (.adcbAObj o)⟩,
   ⟨0xFF#8, 0x91#8, BObj.isAny, fun o _ => .none (.adcbObjA o)⟩,
   ⟨0xFF#8, 0x93#8, BObj.isAny, fun o _ => .byte fun n => .adcbObjOff o n⟩,
   ⟨0xFF#8, 0x90#8, BObj.isAny, fun o _ => .byte fun n => .adcbObjImm o n⟩,
   ⟨0xFF#8, 0xA2#8, BObj.notR, fun o _ => .none (.subbAObj o)⟩,
   ⟨0xFF#8, 0xA1#8, BObj.isAny, fun o _ => .none (.subbObjA o)⟩,
   ⟨0xFF#8, 0xA3#8, BObj.isAny, fun o _ => .byte fun n => .subbObjOff o n⟩,
   ⟨0xFF#8, 0xA0#8, BObj.isAny, fun o _ => .byte fun n => .subbObjImm o n⟩,
   ⟨0xFF#8, 0xB2#8, BObj.notR, fun o _ => .none (.sbcbAObj o)⟩,
   ⟨0xFF#8, 0xB1#8, BObj.isAny, fun o _ => .none (.sbcbObjA o)⟩,
   ⟨0xFF#8, 0xB3#8, BObj.isAny, fun o _ => .byte fun n => .sbcbObjOff o n⟩,
   ⟨0xFF#8, 0xB0#8, BObj.isAny, fun o _ => .byte fun n => .sbcbObjImm o n⟩,
   ⟨0xFF#8, 0xC2#8, BObj.notR, fun o _ => .none (.cmpbAObj o)⟩,
   ⟨0xFF#8, 0xC1#8, BObj.isAny, fun o _ => .none (.cmpbObjA o)⟩,
   ⟨0xFF#8, 0xC3#8, BObj.isAny, fun o _ => .byte fun n => .cmpbObjOff o n⟩,
   ⟨0xFF#8, 0xC0#8, BObj.isAny, fun o _ => .byte fun n => .cmpbObjImm o n⟩,
   ⟨0xFF#8, 0xD2#8, BObj.notR, fun o _ => .none (.andbAObj o)⟩,
   ⟨0xFF#8, 0xD1#8, BObj.isAny, fun o _ => .none (.andbObjA o)⟩,
   ⟨0xFF#8, 0xD3#8, BObj.isAny, fun o _ => .byte fun n => .andbObjOff o n⟩,
   ⟨0xFF#8, 0xD0#8, BObj.isAny, fun o _ => .byte fun n => .andbObjImm o n⟩]

/-- The byte suffix table with the special pairs of the PSWH prefix (R126, R128), part 2 of 2. -/
def byteSuffixRows2 : List (SuffixRow BObj) :=
  [⟨0xFF#8, 0xE2#8, BObj.notR, fun o _ => .none (.orbAObj o)⟩,
   ⟨0xFF#8, 0xE1#8, BObj.isAny, fun o _ => .none (.orbObjA o)⟩,
   ⟨0xFF#8, 0xE3#8, BObj.isAny, fun o _ => .byte fun n => .orbObjOff o n⟩,
   ⟨0xFF#8, 0xE0#8, BObj.isAny, fun o _ => .byte fun n => .orbObjImm o n⟩,
   ⟨0xFF#8, 0xF2#8, BObj.isAny, fun o _ => .none (.xorbAObj o)⟩,
   ⟨0xFF#8, 0xF1#8, BObj.isAny, fun o _ => .none (.xorbObjA o)⟩,
   ⟨0xFF#8, 0xF3#8, BObj.isAny, fun o _ => .byte fun n => .xorbObjOff o n⟩,
   ⟨0xFF#8, 0xF0#8, BObj.isAny, fun o _ => .byte fun n => .xorbObjImm o n⟩,
   ⟨0xF8#8, 0x18#8, BObj.isAny, fun o b => .none (.sbBit o (b.setWidth 3))⟩,
   ⟨0xF8#8, 0x08#8, BObj.isAny, fun o b => .none (.rbBit o (b.setWidth 3))⟩,
   ⟨0xF8#8, 0x28#8, BObj.isAny, fun o b => .none (.mbCBit o (b.setWidth 3))⟩,
   ⟨0xF8#8, 0x38#8, BObj.isAny, fun o b => .none (.mbBitC o (b.setWidth 3))⟩,
   ⟨0xFF#8, 0x11#8, BObj.isAny, fun o _ => .none (.sbrObj o)⟩,
   ⟨0xFF#8, 0x12#8, BObj.isAny, fun o _ => .none (.rbrObj o)⟩,
   ⟨0xFF#8, 0x13#8, BObj.isAny, fun o _ => .none (.tbrObj o)⟩,
   ⟨0xFF#8, 0x21#8, BObj.isAny, fun o _ => .none (.mbrCObj o)⟩,
   ⟨0xFF#8, 0x20#8, BObj.isAny, fun o _ => .none (.mbrObjC o)⟩,
   ⟨0xFF#8, 0x34#8, BObj.isPswh, fun _ _ => .none .mulb⟩,
   ⟨0xFF#8, 0x36#8, BObj.isPswh, fun _ _ => .none .divb⟩]

/-- The byte suffix table with the special pairs of the PSWH prefix (R126, R128). -/
def byteSuffixRows : List (SuffixRow BObj) := byteSuffixRows1 ++ byteSuffixRows2

/-- The first bytes that no page prints, or prints doubtfully: the values a parameter may claim (R127, R9). -/
def freeBytes : List Byte :=
  [0x04#8, 0x05#8, 0x06#8, 0x07#8, 0x31#8, 0x33#8, 0x55#8, 0x56#8, 0x63#8, 0x64#8, 0x65#8, 0x66#8, 0x74#8, 0x75#8,
   0x76#8, 0xA5#8, 0xCC#8, 0xFB#8, 0xFC#8, 0xFD#8, 0xFE#8]

/-- Whether the map of R127 leaves a first byte to the parameters. -/
def isFree (b : Byte) : Bool := freeBytes.contains b

/-- The instruction a free first byte is by the `OP_*` parameters, or the illegal code it is without (R9, R135). -/
def freeTail (ops : Opcodes) (dd : Bool) (b : Byte) : Tail :=
  if ops.scal == some b then .byte .scal
  else if ops.rolA == some b then .none (bif dd then .rolA else .rolbA)
  else if ops.srlA == some b then .none (bif dd then .srlA else .srlbA)
  else if ops.pushsA == some b then .none .pushsA
  else if ops.popsA == some b then .none .popsA
  else if ops.popsLrb == some b then .none .popsLrb
  else if ops.incLrb == some b then .none .incLrb
  else if ops.decLrb == some b then .none .decLrb
  else .none (.illegal b)

/-- The codes the parameters set. -/
def Opcodes.codes (ops : Opcodes) : List Byte :=
  [ops.scal, ops.rolA, ops.srlA, ops.pushsA, ops.popsA, ops.popsLrb, ops.incLrb, ops.decLrb].filterMap id

/-- A setting of the `OP_*` parameters the first-byte map admits: free bytes, no byte twice (R9, R127). -/
def Opcodes.legal (ops : Opcodes) : Bool := ops.codes.all isFree && decide ops.codes.Nodup

/-- Whether a page makes an instruction of this word object and suffix (R128). -/
def WObj.pairs (o : WObj) (sfx : Byte) : Bool := wordSuffixRows.any fun r => r.hits o sfx

/-- Whether a page makes an instruction of this byte object and suffix (R128). -/
def BObj.pairs (o : BObj) (sfx : Byte) : Bool := byteSuffixRows.any fun r => r.hits o sfx

end Sys2Proof
end

