-- ==== Sys2Proof/WellFormed.lean ====
section
/-! DEFINITION. Which terms of Instr are instructions: the objects each page lists (spec/30_encoding.md R128), the
codes the parameters set (spec/00_scope.md R9), and for the prefix and illegal rows that no instruction is meant
(R135). Register and bit numbers are in range by their types (R102). -/

namespace Sys2Proof

/-- The checks on an instruction, under a setting of the `OP_*` parameters. -/
def Instr.wellFormed (ops : Opcodes) (i : Instr) : Bool :=
  match i with
  | .lImm _ => true
  | .lEr _ => true
  | .lX1Ind _ => true
  | .lX2Ind _ => true
  | .lUspInd _ => true
  | .lOff _ => true
  | .lZp _ => true
  | .lbImm _ => true
  | .lbR _ => true
  | .lbX1Ind _ => true
  | .lbX2Ind _ => true
  | .lbUspInd _ => true
  | .lbOff _ => true
  | .lbZp _ => true
  | .stEr _ => true
  | .stbR _ => true
  | .stX1Ind _ => true
  | .stbX1Ind _ => true
  | .stX2Ind _ => true
  | .stbX2Ind _ => true
  | .stUspInd _ => true
  | .stbUspInd _ => true
  | .stOff _ => true
  | .stbOff _ => true
  | .stZp _ => true
  | .stbZp _ => true
  | .movAObj _ => true
  | .movObjA o => o.isMovA
  | .movX1Imm _ => true
  | .movX2Imm _ => true
  | .movDpImm _ => true
  | .movLrbImm _ => true
  | .movObjImm o _ => o.isStep
  | .movX1Obj _ => true
  | .movX2Obj _ => true
  | .movDpObj _ => true
  | .movUspObj _ => true
  | .movSspObj _ => true
  | .movLrbObj _ => true
  | .movErObj _ _ => true
  | .movOffObj _ _ => true
  | .movPswObj _ => true
  | .movbAObj _ => true
  | .movbObjA _ => true
  | .movbRImm _ _ => true
  | .movbObjImm o _ => o.notR
  | .movbRObj _ _ => true
  | .movbOffObj _ _ => true
  | .movbPswhObj _ => true
  | .movbPswlObj _ => true
  | .clrObj _ => true
  | .clrbObj _ => true
  | .xchgAObj _ => true
  | .xchgbAObj _ => true
  | .xnblAOff _ => true
  | .rolObj _ => true
  | .rolbObj _ => true
  | .rorObj _ => true
  | .rorbObj _ => true
  | .sllObj _ => true
  | .sllbObj _ => true
  | .srlObj _ => true
  | .srlbObj _ => true
  | .sraObj _ => true
  | .srabObj _ => true
  | .incObj o => o.isStep
  | .incbR _ => true
  | .incbObj o => o.notR
  | .decObj o => o.isStep
  | .decbR _ => true
  | .decbObj o => o.notR
  | .lcDirect _ => true
  | .lcInd _ => true
  | .lcBased o _ => o.isBase
  | .lcbDirect _ => true
  | .lcbInd _ => true
  | .lcbBased o _ => o.isBase
  | .cmpcDirect _ => true
  | .cmpcInd _ => true
  | .cmpcBased o _ => o.isBase
  | .cmpcbDirect _ => true
  | .cmpcbInd _ => true
  | .cmpcbBased o _ => o.isBase
  | .addAImm _ => true
  | .addbAImm _ => true
  | .addAEr _ => true
  | .addbAR _ => true
  | .addAOff _ => true
  | .addbAOff _ => true
  | .addAObj o => o.isAluA
  | .addbAObj o => o.notR
  | .addObjA _ => true
  | .addbObjA _ => true
  | .addObjOff _ _ => true
  | .addbObjOff _ _ => true
  | .addObjImm _ _ => true
  | .addbObjImm _ _ => true
  | .adcAImm _ => true
  | .adcbAImm _ => true
  | .adcAEr _ => true
  | .adcbAR _ => true
  | .adcAOff _ => true
  | .adcbAOff _ => true
  | .adcAObj o => o.isAluA
  | .adcbAObj o => o.notR
  | .adcObjA _ => true
  | .adcbObjA _ => true
  | .adcObjOff _ _ => true
  | .adcbObjOff _ _ => true
  | .adcObjImm _ _ => true
  | .adcbObjImm _ _ => true
  | .subAImm _ => true
  | .subbAImm _ => true
  | .subAEr _ => true
  | .subbAR _ => true
  | .subAOff _ => true
  | .subbAOff _ => true
  | .subAObj o => o.isAluA
  | .subbAObj o => o.notR
  | .subObjA _ => true
  | .subbObjA _ => true
  | .subObjOff _ _ => true
  | .subbObjOff _ _ => true
  | .subObjImm _ _ => true
  | .subbObjImm _ _ => true
  | .sbcAImm _ => true
  | .sbcbAImm _ => true
  | .sbcAEr _ => true
  | .sbcbAR _ => true
  | .sbcAOff _ => true
  | .sbcbAOff _ => true
  | .sbcAObj o => o.isAluA
  | .sbcbAObj o => o.notR
  | .sbcObjA _ => true
  | .sbcbObjA _ => true
  | .sbcObjOff _ _ => true
  | .sbcbObjOff _ _ => true
  | .sbcObjImm _ _ => true
  | .sbcbObjImm _ _ => true
  | .cmpAImm _ => true
  | .cmpbAImm _ => true
  | .cmpAEr _ => true
  | .cmpbAR _ => true
  | .cmpAOff _ => true
  | .cmpbAOff _ => true
  | .cmpAObj o => o.isAluA
  | .cmpbAObj o => o.notR
  | .cmpObjA _ => true
  | .cmpbObjA _ => true
  | .cmpObjOff _ _ => true
  | .cmpbObjOff _ _ => true
  | .cmpObjImm _ _ => true
  | .cmpbObjImm _ _ => true
  | .andAImm _ => true
  | .andbAImm _ => true
  | .andAEr _ => true
  | .andbAR _ => true
  | .andAOff _ => true
  | .andbAOff _ => true
  | .andAObj o => o.isAluA
  | .andbAObj o => o.notR
  | .andObjA _ => true
  | .andbObjA _ => true
  | .andObjOff _ _ => true
  | .andbObjOff _ _ => true
  | .andObjImm _ _ => true
  | .andbObjImm _ _ => true
  | .orAImm _ => true
  | .orbAImm _ => true
  | .orAEr _ => true
  | .orbAR _ => true
  | .orAOff _ => true
  | .orbAOff _ => true
  | .orAObj o => o.isAluA
  | .orbAObj o => o.notR
  | .orObjA _ => true
  | .orbObjA _ => true
  | .orObjOff _ _ => true
  | .orbObjOff _ _ => true
  | .orObjImm _ _ => true
  | .orbObjImm _ _ => true
  | .xorAImm _ => true
  | .xorbAImm _ => true
  | .xorAOff _ => true
  | .xorbAOff _ => true
  | .xorAObj _ => true
  | .xorbAObj _ => true
  | .xorObjA _ => true
  | .xorbObjA _ => true
  | .xorObjOff _ _ => true
  | .xorbObjOff _ _ => true
  | .xorObjImm _ _ => true
  | .xorbObjImm _ _ => true
  | .sbBit _ _ => true
  | .rbBit _ _ => true
  | .mbCBit _ _ => true
  | .mbBitC _ _ => true
  | .sbrObj _ => true
  | .rbrObj _ => true
  | .tbrObj _ => true
  | .mbrCObj _ => true
  | .mbrObjC _ => true
  | .sj _ => true
  | .jAddr _ => true
  | .jObj _ => true
  | .jcGt _ => true
  | .jcEq _ => true
  | .jcLt _ => true
  | .jcGe _ => true
  | .jcNe _ => true
  | .jcLe _ => true
  | .jbs _ _ _ => true
  | .jbr _ _ _ => true
  | .jrnz _ => true
  | .scal _ => ops.scal.isSome
  | .calAddr _ => true
  | .calObj _ => true
  | .vcal _ => true
  | .wpEr r sfx => !(WObj.er r).pairs sfx
  | .wpX1 sfx => !WObj.x1.pairs sfx
  | .wpX2 sfx => !WObj.x2.pairs sfx
  | .wpDp sfx => !WObj.dp.pairs sfx
  | .wpSsp sfx => !WObj.ssp.pairs sfx
  | .wpUsp sfx => !WObj.usp.pairs sfx
  | .wpLrb sfx => !WObj.lrb.pairs sfx
  | .wpX1Ind n sfx => !(WObj.x1Ind n).pairs sfx
  | .wpX2Ind n sfx => !(WObj.x2Ind n).pairs sfx
  | .wpDpInd sfx => !WObj.dpInd.pairs sfx
  | .wpUspInd n sfx => !(WObj.uspInd n).pairs sfx
  | .wpOff n sfx => !(WObj.off n).pairs sfx
  | .wpZp n sfx => !(WObj.zp n).pairs sfx
  | .bpR r sfx => !(BObj.r r).pairs sfx
  | .bpPswh sfx => !BObj.pswh.pairs sfx
  | .bpPswl sfx => !BObj.pswl.pairs sfx
  | .bpX1Ind n sfx => !(BObj.x1Ind n).pairs sfx
  | .bpX2Ind n sfx => !(BObj.x2Ind n).pairs sfx
  | .bpDpInd sfx => !BObj.dpInd.pairs sfx
  | .bpUspInd n sfx => !(BObj.uspInd n).pairs sfx
  | .bpOff n sfx => !(BObj.off n).pairs sfx
  | .bpZp n sfx => !(BObj.zp n).pairs sfx
  | .illegal b => isFree b && !ops.codes.contains b
  | .lX1 => true
  | .lX2 => true
  | .lDp => true
  | .lDpInd => true
  | .lbDpInd => true
  | .stDpInd => true
  | .stbDpInd => true
  | .movX1A => true
  | .movX2A => true
  | .movDpA => true
  | .clrA => true
  | .clrbA => true
  | .swap => true
  | .swapb => true
  | .pushsA => ops.pushsA.isSome
  | .pushsLrb => true
  | .popsA => ops.popsA.isSome
  | .popsLrb => ops.popsLrb.isSome
  | .rolA => ops.rolA.isSome
  | .rolbA => ops.rolA.isSome
  | .rorA => true
  | .rorbA => true
  | .sllA => true
  | .sllbA => true
  | .srlA => ops.srlA.isSome
  | .srlbA => ops.srlA.isSome
  | .sraA => true
  | .srabA => true
  | .incX1 => true
  | .incX2 => true
  | .incDp => true
  | .incLrb => ops.incLrb.isSome
  | .decX1 => true
  | .decX2 => true
  | .decDp => true
  | .decLrb => ops.decLrb.isSome
  | .mul => true
  | .mulb => true
  | .div => true
  | .divb => true
  | .daa => true
  | .das => true
  | .extnd => true
  | .rt => true
  | .rti => true
  | .sc => true
  | .rc => true
  | .brk => true
  | .nop => true

/-- The value of DD under which an instruction's code is that instruction, where the code is shared (R108, R129). -/
def Instr.ddSelect : Instr → Option Bool
  | .stEr _ => some true
  | .stbR _ => some false
  | .stX1Ind _ => some true
  | .stbX1Ind _ => some false
  | .stX2Ind _ => some true
  | .stbX2Ind _ => some false
  | .stUspInd _ => some true
  | .stbUspInd _ => some false
  | .stOff _ => some true
  | .stbOff _ => some false
  | .stZp _ => some true
  | .stbZp _ => some false
  | .addAImm _ => some true
  | .addbAImm _ => some false
  | .addAEr _ => some true
  | .addbAR _ => some false
  | .addAOff _ => some true
  | .addbAOff _ => some false
  | .adcAImm _ => some true
  | .adcbAImm _ => some false
  | .adcAEr _ => some true
  | .adcbAR _ => some false
  | .adcAOff _ => some true
  | .adcbAOff _ => some false
  | .subAImm _ => some true
  | .subbAImm _ => some false
  | .subAEr _ => some true
  | .subbAR _ => some false
  | .subAOff _ => some true
  | .subbAOff _ => some false
  | .sbcAImm _ => some true
  | .sbcbAImm _ => some false
  | .sbcAEr _ => some true
  | .sbcbAR _ => some false
  | .sbcAOff _ => some true
  | .sbcbAOff _ => some false
  | .cmpAImm _ => some true
  | .cmpbAImm _ => some false
  | .cmpAEr _ => some true
  | .cmpbAR _ => some false
  | .cmpAOff _ => some true
  | .cmpbAOff _ => some false
  | .andAImm _ => some true
  | .andbAImm _ => some false
  | .andAEr _ => some true
  | .andbAR _ => some false
  | .andAOff _ => some true
  | .andbAOff _ => some false
  | .orAImm _ => some true
  | .orbAImm _ => some false
  | .orAEr _ => some true
  | .orbAR _ => some false
  | .orAOff _ => some true
  | .orbAOff _ => some false
  | .xorAImm _ => some true
  | .xorbAImm _ => some false
  | .xorAOff _ => some true
  | .xorbAOff _ => some false
  | .stDpInd => some true
  | .stbDpInd => some false
  | .swap => some true
  | .swapb => some false
  | .rolA => some true
  | .rolbA => some false
  | .rorA => some true
  | .rorbA => some false
  | .sllA => some true
  | .sllbA => some false
  | .srlA => some true
  | .srlbA => some false
  | .sraA => some true
  | .srabA => some false
  | _ => none

/-- The rows that transfer control or are no instruction: jumps, calls, returns, BRK, the prefix rows and the illegal
row (spec/50_jump_call.md R410, spec/51_other.md R443, spec/60_exceptions.md R456). Every other instruction ends at the
next one (spec/10_state.md R23). -/
def Instr.transfers : Instr → Bool
  | .sj _ | .jAddr _ | .jObj _ | .jcGt _ | .jcEq _ | .jcLt _ | .jcGe _ | .jcNe _ | .jcLe _ => true
  | .jbs _ _ _ | .jbr _ _ _ | .jrnz _ => true
  | .scal _ | .calAddr _ | .calObj _ | .vcal _ | .rt | .rti | .brk => true
  | .wpEr _ _ | .wpX1 _ | .wpX2 _ | .wpDp _ | .wpSsp _ | .wpUsp _ | .wpLrb _ | .wpX1Ind _ _ | .wpX2Ind _ _ => true
  | .wpDpInd _ | .wpUspInd _ _ | .wpOff _ _ | .wpZp _ _ => true
  | .bpR _ _ | .bpPswh _ | .bpPswl _ | .bpX1Ind _ _ | .bpX2Ind _ _ | .bpDpInd _ | .bpUspInd _ _ => true
  | .bpOff _ _ | .bpZp _ _ | .illegal _ => true
  | _ => false

end Sys2Proof
end

