-- ==== Sys2Proof/Decode.lean ====
section
/-! DEFINITION. The decoder, total on any bytes (spec/30_encoding.md R107), and after it the encoder, written from the
code of each instruction page. A byte string that is no instruction decodes to the illegal row or the prefix row it
meets (R135, log entry 6). -/

namespace Sys2Proof

/-- The byte after a word prefix, looked up in the word suffix table (R125). -/
def decodeWordSuffix (o : WObj) : List Byte → Decoded
  | [] => .incomplete
  | b :: bs =>
    match wordSuffixRows.find? fun r => r.hits o b with
    | some r => (r.make o b).read (o.prefixLen + 1) bs
    | none => .instr (o.unpaired b) (o.prefixLen + 1)

/-- The byte after a byte prefix, looked up in the byte suffix table (R126). -/
def decodeByteSuffix (o : BObj) : List Byte → Decoded
  | [] => .incomplete
  | b :: bs =>
    match byteSuffixRows.find? fun r => r.hits o b with
    | some r => (r.make o b).read (o.prefixLen + 1) bs
    | none => .instr (o.unpaired b) (o.prefixLen + 1)

/-- A prefix that carries one byte (`off N8`, `N8`, `±N8[USP]`). -/
def withByteOperand (bs : List Byte) (k : Byte → List Byte → Decoded) : Decoded :=
  match bs with
  | n :: rest => k n rest
  | [] => .incomplete

/-- A prefix that carries a base, low byte first (`N16[X1]`, `N16[X2]`; R103). -/
def withWordOperand (bs : List Byte) (k : Word → List Byte → Decoded) : Decoded :=
  match bs with
  | lo :: hi :: rest => k (mkWord hi lo) rest
  | _ => .incomplete

/-- An instruction whose first byte is a prefix (R124). -/
def decodePrefixed (b : Byte) (bs : List Byte) : Decoded :=
  if b &&& 0xFC#8 == 0x44#8 then decodeWordSuffix (.er (b.setWidth 2)) bs
  else if b &&& 0xF8#8 == 0x20#8 then decodeByteSuffix (.r (b.setWidth 3)) bs
  else if b == 0x90#8 then decodeWordSuffix .x1 bs
  else if b == 0x91#8 then decodeWordSuffix .x2 bs
  else if b == 0x92#8 then decodeWordSuffix .dp bs
  else if b == 0xA0#8 then decodeWordSuffix .ssp bs
  else if b == 0xA1#8 then decodeWordSuffix .usp bs
  else if b == 0xA2#8 then decodeByteSuffix .pswh bs
  else if b == 0xA3#8 then decodeByteSuffix .pswl bs
  else if b == 0xA4#8 then decodeWordSuffix .lrb bs
  else if b == 0xB0#8 then withWordOperand bs fun n => decodeWordSuffix (.x1Ind n)
  else if b == 0xB1#8 then withWordOperand bs fun n => decodeWordSuffix (.x2Ind n)
  else if b == 0xB2#8 then decodeWordSuffix .dpInd bs
  else if b == 0xB3#8 then withByteOperand bs fun n => decodeWordSuffix (.uspInd n)
  else if b == 0xB4#8 then withByteOperand bs fun n => decodeWordSuffix (.off n)
  else if b == 0xB5#8 then withByteOperand bs fun n => decodeWordSuffix (.zp n)
  else if b == 0xC0#8 then withWordOperand bs fun n => decodeByteSuffix (.x1Ind n)
  else if b == 0xC1#8 then withWordOperand bs fun n => decodeByteSuffix (.x2Ind n)
  else if b == 0xC2#8 then decodeByteSuffix .dpInd bs
  else if b == 0xC3#8 then withByteOperand bs fun n => decodeByteSuffix (.uspInd n)
  else if b == 0xC4#8 then withByteOperand bs fun n => decodeByteSuffix (.off n)
  else if b == 0xC5#8 then withByteOperand bs fun n => decodeByteSuffix (.zp n)
  else .instr (.illegal b) 1

/-- The instruction at the head of a byte string, under a setting of the `OP_*` parameters and a value of DD (R107). -/
def decode (ops : Opcodes) (dd : Bool) : List Byte → Decoded
  | [] => .incomplete
  | b :: bs =>
    if isFree b then (freeTail ops dd b).read 1 bs
    else
      match (codeRows dd).find? fun r => r.hits b with
      | some r => (r.make b).read 1 bs
      | none => decodePrefixed b bs

/-- The two bytes of a constant, low byte first (R103). -/
def wordBytes (n : Word) : List Byte := [loByte n, hiByte n]

/-- The bytes of an instruction, from its page's code (R102 to R106, R124 to R127); none where its `OP_*` parameter is
unset. -/
def encode (ops : Opcodes) : Instr → Option (List Byte)
  | .lImm n => some ([0x67#8] ++ wordBytes n)
  | .lEr r => some [0x34#8 ||| r.setWidth 8]
  | .lX1Ind n => some ([0xE0#8] ++ wordBytes n)
  | .lX2Ind n => some ([0xE1#8] ++ wordBytes n)
  | .lUspInd n => some [0xE3#8, n]
  | .lOff n => some [0xE4#8, n]
  | .lZp n => some [0xE5#8, n]
  | .lbImm n => some [0x77#8, n]
  | .lbR r => some [0x78#8 ||| r.setWidth 8]
  | .lbX1Ind n => some ([0xF0#8] ++ wordBytes n)
  | .lbX2Ind n => some ([0xF1#8] ++ wordBytes n)
  | .lbUspInd n => some [0xF3#8, n]
  | .lbOff n => some [0xF4#8, n]
  | .lbZp n => some [0xF5#8, n]
  | .stEr r => some [0x88#8 ||| r.setWidth 8]
  | .stbR r => some [0x88#8 ||| r.setWidth 8]
  | .stX1Ind n => some ([0xD0#8] ++ wordBytes n)
  | .stbX1Ind n => some ([0xD0#8] ++ wordBytes n)
  | .stX2Ind n => some ([0xD1#8] ++ wordBytes n)
  | .stbX2Ind n => some ([0xD1#8] ++ wordBytes n)
  | .stUspInd n => some [0xD3#8, n]
  | .stbUspInd n => some [0xD3#8, n]
  | .stOff n => some [0xD4#8, n]
  | .stbOff n => some [0xD4#8, n]
  | .stZp n => some [0xD5#8, n]
  | .stbZp n => some [0xD5#8, n]
  | .movAObj o => some (o.prefixBytes ++ [0x99#8])
  | .movObjA o => some (o.prefixBytes ++ [0x8A#8])
  | .movX1Imm n => some ([0x60#8] ++ wordBytes n)
  | .movX2Imm n => some ([0x61#8] ++ wordBytes n)
  | .movDpImm n => some ([0x62#8] ++ wordBytes n)
  | .movLrbImm n => some ([0x57#8] ++ wordBytes n)
  | .movObjImm o n => some (o.prefixBytes ++ [0x98#8] ++ wordBytes n)
  | .movX1Obj o => some (o.prefixBytes ++ [0x78#8])
  | .movX2Obj o => some (o.prefixBytes ++ [0x79#8])
  | .movDpObj o => some (o.prefixBytes ++ [0x7A#8])
  | .movUspObj o => some (o.prefixBytes ++ [0x7B#8])
  | .movSspObj o => some (o.prefixBytes ++ [0x7E#8])
  | .movLrbObj o => some (o.prefixBytes ++ [0x7F#8])
  | .movErObj r o => some (o.prefixBytes ++ [0x48#8 ||| r.setWidth 8])
  | .movOffObj n o => some (o.prefixBytes ++ [0x7C#8, n])
  | .movPswObj o => some (o.prefixBytes ++ [0x7D#8])
  | .movbAObj o => some (o.prefixBytes ++ [0x99#8])
  | .movbObjA o => some (o.prefixBytes ++ [0x8A#8])
  | .movbRImm r n => some [0x98#8 ||| r.setWidth 8, n]
  | .movbObjImm o n => some (o.prefixBytes ++ [0x98#8, n])
  | .movbRObj r o => some (o.prefixBytes ++ [0x48#8 ||| r.setWidth 8])
  | .movbOffObj n o => some (o.prefixBytes ++ [0x7C#8, n])
  | .movbPswhObj o => some (o.prefixBytes ++ [0x89#8])
  | .movbPswlObj o => some (o.prefixBytes ++ [0x88#8])
  | .clrObj o => some (o.prefixBytes ++ [0x15#8])
  | .clrbObj o => some (o.prefixBytes ++ [0x15#8])
  | .xchgAObj o => some (o.prefixBytes ++ [0x10#8])
  | .xchgbAObj o => some (o.prefixBytes ++ [0x10#8])
  | .xnblAOff n => some [0x84#8, n]
  | .rolObj o => some (o.prefixBytes ++ [0xB7#8])
  | .rolbObj o => some (o.prefixBytes ++ [0xB7#8])
  | .rorObj o => some (o.prefixBytes ++ [0xC7#8])
  | .rorbObj o => some (o.prefixBytes ++ [0xC7#8])
  | .sllObj o => some (o.prefixBytes ++ [0xD7#8])
  | .sllbObj o => some (o.prefixBytes ++ [0xD7#8])
  | .srlObj o => some (o.prefixBytes ++ [0xE7#8])
  | .srlbObj o => some (o.prefixBytes ++ [0xE7#8])
  | .sraObj o => some (o.prefixBytes ++ [0xF7#8])
  | .srabObj o => some (o.prefixBytes ++ [0xF7#8])
  | .incObj o => some (o.prefixBytes ++ [0x16#8])
  | .incbR r => some [0xA8#8 ||| r.setWidth 8]
  | .incbObj o => some (o.prefixBytes ++ [0x16#8])
  | .decObj o => some (o.prefixBytes ++ [0x17#8])
  | .decbR r => some [0xB8#8 ||| r.setWidth 8]
  | .decbObj o => some (o.prefixBytes ++ [0x17#8])
  | .lcDirect n => some ([0x90#8, 0x9C#8] ++ wordBytes n)
  | .lcInd o => some (o.prefixBytes ++ [0xA8#8])
  | .lcBased o n => some (o.prefixBytes ++ [0xA9#8] ++ wordBytes n)
  | .lcbDirect n => some ([0x90#8, 0x9D#8] ++ wordBytes n)
  | .lcbInd o => some (o.prefixBytes ++ [0xAA#8])
  | .lcbBased o n => some (o.prefixBytes ++ [0xAB#8] ++ wordBytes n)
  | .cmpcDirect n => some ([0x90#8, 0x9E#8] ++ wordBytes n)
  | .cmpcInd o => some (o.prefixBytes ++ [0xAC#8])
  | .cmpcBased o n => some (o.prefixBytes ++ [0xAD#8] ++ wordBytes n)
  | .cmpcbDirect n => some ([0x90#8, 0x9F#8] ++ wordBytes n)
  | .cmpcbInd o => some (o.prefixBytes ++ [0xAE#8])
  | .cmpcbBased o n => some (o.prefixBytes ++ [0xAF#8] ++ wordBytes n)
  | .addAImm n => some ([0x86#8] ++ wordBytes n)
  | .addbAImm n => some [0x86#8, n]
  | .addAEr r => some [0x08#8 ||| r.setWidth 8]
  | .addbAR r => some [0x08#8 ||| r.setWidth 8]
  | .addAOff n => some [0x87#8, n]
  | .addbAOff n => some [0x87#8, n]
  | .addAObj o => some (o.prefixBytes ++ [0x82#8])
  | .addbAObj o => some (o.prefixBytes ++ [0x82#8])
  | .addObjA o => some (o.prefixBytes ++ [0x81#8])
  | .addbObjA o => some (o.prefixBytes ++ [0x81#8])
  | .addObjOff o n => some (o.prefixBytes ++ [0x83#8, n])
  | .addbObjOff o n => some (o.prefixBytes ++ [0x83#8, n])
  | .addObjImm o n => some (o.prefixBytes ++ [0x80#8] ++ wordBytes n)
  | .addbObjImm o n => some (o.prefixBytes ++ [0x80#8, n])
  | .adcAImm n => some ([0x96#8] ++ wordBytes n)
  | .adcbAImm n => some [0x96#8, n]
  | .adcAEr r => some [0x18#8 ||| r.setWidth 8]
  | .adcbAR r => some [0x18#8 ||| r.setWidth 8]
  | .adcAOff n => some [0x97#8, n]
  | .adcbAOff n => some [0x97#8, n]
  | .adcAObj o => some (o.prefixBytes ++ [0x92#8])
  | .adcbAObj o => some (o.prefixBytes ++ [0x92#8])
  | .adcObjA o => some (o.prefixBytes ++ [0x91#8])
  | .adcbObjA o => some (o.prefixBytes ++ [0x91#8])
  | .adcObjOff o n => some (o.prefixBytes ++ [0x93#8, n])
  | .adcbObjOff o n => some (o.prefixBytes ++ [0x93#8, n])
  | .adcObjImm o n => some (o.prefixBytes ++ [0x90#8] ++ wordBytes n)
  | .adcbObjImm o n => some (o.prefixBytes ++ [0x90#8, n])
  | .subAImm n => some ([0xA6#8] ++ wordBytes n)
  | .subbAImm n => some [0xA6#8, n]
  | .subAEr r => some [0x28#8 ||| r.setWidth 8]
  | .subbAR r => some [0x28#8 ||| r.setWidth 8]
  | .subAOff n => some [0xA7#8, n]
  | .subbAOff n => some [0xA7#8, n]
  | .subAObj o => some (o.prefixBytes ++ [0xA2#8])
  | .subbAObj o => some (o.prefixBytes ++ [0xA2#8])
  | .subObjA o => some (o.prefixBytes ++ [0xA1#8])
  | .subbObjA o => some (o.prefixBytes ++ [0xA1#8])
  | .subObjOff o n => some (o.prefixBytes ++ [0xA3#8, n])
  | .subbObjOff o n => some (o.prefixBytes ++ [0xA3#8, n])
  | .subObjImm o n => some (o.prefixBytes ++ [0xA0#8] ++ wordBytes n)
  | .subbObjImm o n => some (o.prefixBytes ++ [0xA0#8, n])
  | .sbcAImm n => some ([0xB6#8] ++ wordBytes n)
  | .sbcbAImm n => some [0xB6#8, n]
  | .sbcAEr r => some [0x38#8 ||| r.setWidth 8]
  | .sbcbAR r => some [0x38#8 ||| r.setWidth 8]
  | .sbcAOff n => some [0xB7#8, n]
  | .sbcbAOff n => some [0xB7#8, n]
  | .sbcAObj o => some (o.prefixBytes ++ [0xB2#8])
  | .sbcbAObj o => some (o.prefixBytes ++ [0xB2#8])
  | .sbcObjA o => some (o.prefixBytes ++ [0xB1#8])
  | .sbcbObjA o => some (o.prefixBytes ++ [0xB1#8])
  | .sbcObjOff o n => some (o.prefixBytes ++ [0xB3#8, n])
  | .sbcbObjOff o n => some (o.prefixBytes ++ [0xB3#8, n])
  | .sbcObjImm o n => some (o.prefixBytes ++ [0xB0#8] ++ wordBytes n)
  | .sbcbObjImm o n => some (o.prefixBytes ++ [0xB0#8, n])
  | .cmpAImm n => some ([0xC6#8] ++ wordBytes n)
  | .cmpbAImm n => some [0xC6#8, n]
  | .cmpAEr r => some [0x48#8 ||| r.setWidth 8]
  | .cmpbAR r => some [0x48#8 ||| r.setWidth 8]
  | .cmpAOff n => some [0xC7#8, n]
  | .cmpbAOff n => some [0xC7#8, n]
  | .cmpAObj o => some (o.prefixBytes ++ [0xC2#8])
  | .cmpbAObj o => some (o.prefixBytes ++ [0xC2#8])
  | .cmpObjA o => some (o.prefixBytes ++ [0xC1#8])
  | .cmpbObjA o => some (o.prefixBytes ++ [0xC1#8])
  | .cmpObjOff o n => some (o.prefixBytes ++ [0xC3#8, n])
  | .cmpbObjOff o n => some (o.prefixBytes ++ [0xC3#8, n])
  | .cmpObjImm o n => some (o.prefixBytes ++ [0xC0#8] ++ wordBytes n)
  | .cmpbObjImm o n => some (o.prefixBytes ++ [0xC0#8, n])
  | .andAImm n => some ([0xD6#8] ++ wordBytes n)
  | .andbAImm n => some [0xD6#8, n]
  | .andAEr r => some [0x58#8 ||| r.setWidth 8]
  | .andbAR r => some [0x58#8 ||| r.setWidth 8]
  | .andAOff n => some [0xD7#8, n]
  | .andbAOff n => some [0xD7#8, n]
  | .andAObj o => some (o.prefixBytes ++ [0xD2#8])
  | .andbAObj o => some (o.prefixBytes ++ [0xD2#8])
  | .andObjA o => some (o.prefixBytes ++ [0xD1#8])
  | .andbObjA o => some (o.prefixBytes ++ [0xD1#8])
  | .andObjOff o n => some (o.prefixBytes ++ [0xD3#8, n])
  | .andbObjOff o n => some (o.prefixBytes ++ [0xD3#8, n])
  | .andObjImm o n => some (o.prefixBytes ++ [0xD0#8] ++ wordBytes n)
  | .andbObjImm o n => some (o.prefixBytes ++ [0xD0#8, n])
  | .orAImm n => some ([0xE6#8] ++ wordBytes n)
  | .orbAImm n => some [0xE6#8, n]
  | .orAEr r => some [0x68#8 ||| r.setWidth 8]
  | .orbAR r => some [0x68#8 ||| r.setWidth 8]
  | .orAOff n => some [0xE7#8, n]
  | .orbAOff n => some [0xE7#8, n]
  | .orAObj o => some (o.prefixBytes ++ [0xE2#8])
  | .orbAObj o => some (o.prefixBytes ++ [0xE2#8])
  | .orObjA o => some (o.prefixBytes ++ [0xE1#8])
  | .orbObjA o => some (o.prefixBytes ++ [0xE1#8])
  | .orObjOff o n => some (o.prefixBytes ++ [0xE3#8, n])
  | .orbObjOff o n => some (o.prefixBytes ++ [0xE3#8, n])
  | .orObjImm o n => some (o.prefixBytes ++ [0xE0#8] ++ wordBytes n)
  | .orbObjImm o n => some (o.prefixBytes ++ [0xE0#8, n])
  | .xorAImm n => some ([0xF6#8] ++ wordBytes n)
  | .xorbAImm n => some [0xF6#8, n]
  | .xorAOff n => some [0xF7#8, n]
  | .xorbAOff n => some [0xF7#8, n]
  | .xorAObj o => some (o.prefixBytes ++ [0xF2#8])
  | .xorbAObj o => some (o.prefixBytes ++ [0xF2#8])
  | .xorObjA o => some (o.prefixBytes ++ [0xF1#8])
  | .xorbObjA o => some (o.prefixBytes ++ [0xF1#8])
  | .xorObjOff o n => some (o.prefixBytes ++ [0xF3#8, n])
  | .xorbObjOff o n => some (o.prefixBytes ++ [0xF3#8, n])
  | .xorObjImm o n => some (o.prefixBytes ++ [0xF0#8] ++ wordBytes n)
  | .xorbObjImm o n => some (o.prefixBytes ++ [0xF0#8, n])
  | .sbBit o n => some (o.prefixBytes ++ [0x18#8 ||| n.setWidth 8])
  | .rbBit o n => some (o.prefixBytes ++ [0x08#8 ||| n.setWidth 8])
  | .mbCBit o n => some (o.prefixBytes ++ [0x28#8 ||| n.setWidth 8])
  | .mbBitC o n => some (o.prefixBytes ++ [0x38#8 ||| n.setWidth 8])
  | .sbrObj o => some (o.prefixBytes ++ [0x11#8])
  | .rbrObj o => some (o.prefixBytes ++ [0x12#8])
  | .tbrObj o => some (o.prefixBytes ++ [0x13#8])
  | .mbrCObj o => some (o.prefixBytes ++ [0x21#8])
  | .mbrObjC o => some (o.prefixBytes ++ [0x20#8])
  | .sj rel => some [0xCB#8, rel]
  | .jAddr ad => some ([0x03#8] ++ wordBytes ad)
  | .jObj o => some (o.prefixBytes ++ [0x22#8])
  | .jcGt rel => some [0xC8#8, rel]
  | .jcEq rel => some [0xC9#8, rel]
  | .jcLt rel => some [0xCA#8, rel]
  | .jcGe rel => some [0xCD#8, rel]
  | .jcNe rel => some [0xCE#8, rel]
  | .jcLe rel => some [0xCF#8, rel]
  | .jbs bit n rel => some [0xE8#8 ||| bit.setWidth 8, n, rel]
  | .jbr bit n rel => some [0xD8#8 ||| bit.setWidth 8, n, rel]
  | .jrnz rel => some [0x30#8, rel]
  | .scal rel => ops.scal.map fun c => [c, rel]
  | .calAddr ad => some ([0x32#8] ++ wordBytes ad)
  | .calObj o => some (o.prefixBytes ++ [0x23#8])
  | .vcal n => some [0x10#8 ||| n.setWidth 8]
  | .wpEr r sfx => some ((WObj.er r).prefixBytes ++ [sfx])
  | .wpX1 sfx => some (WObj.x1.prefixBytes ++ [sfx])
  | .wpX2 sfx => some (WObj.x2.prefixBytes ++ [sfx])
  | .wpDp sfx => some (WObj.dp.prefixBytes ++ [sfx])
  | .wpSsp sfx => some (WObj.ssp.prefixBytes ++ [sfx])
  | .wpUsp sfx => some (WObj.usp.prefixBytes ++ [sfx])
  | .wpLrb sfx => some (WObj.lrb.prefixBytes ++ [sfx])
  | .wpX1Ind n sfx => some ((WObj.x1Ind n).prefixBytes ++ [sfx])
  | .wpX2Ind n sfx => some ((WObj.x2Ind n).prefixBytes ++ [sfx])
  | .wpDpInd sfx => some (WObj.dpInd.prefixBytes ++ [sfx])
  | .wpUspInd n sfx => some ((WObj.uspInd n).prefixBytes ++ [sfx])
  | .wpOff n sfx => some ((WObj.off n).prefixBytes ++ [sfx])
  | .wpZp n sfx => some ((WObj.zp n).prefixBytes ++ [sfx])
  | .bpR r sfx => some ((BObj.r r).prefixBytes ++ [sfx])
  | .bpPswh sfx => some (BObj.pswh.prefixBytes ++ [sfx])
  | .bpPswl sfx => some (BObj.pswl.prefixBytes ++ [sfx])
  | .bpX1Ind n sfx => some ((BObj.x1Ind n).prefixBytes ++ [sfx])
  | .bpX2Ind n sfx => some ((BObj.x2Ind n).prefixBytes ++ [sfx])
  | .bpDpInd sfx => some (BObj.dpInd.prefixBytes ++ [sfx])
  | .bpUspInd n sfx => some ((BObj.uspInd n).prefixBytes ++ [sfx])
  | .bpOff n sfx => some ((BObj.off n).prefixBytes ++ [sfx])
  | .bpZp n sfx => some ((BObj.zp n).prefixBytes ++ [sfx])
  | .illegal b => some [b]
  | .lX1 => some [0x40#8]
  | .lX2 => some [0x41#8]
  | .lDp => some [0x42#8]
  | .lDpInd => some [0xE2#8]
  | .lbDpInd => some [0xF2#8]
  | .stDpInd => some [0xD2#8]
  | .stbDpInd => some [0xD2#8]
  | .movX1A => some [0x50#8]
  | .movX2A => some [0x51#8]
  | .movDpA => some [0x52#8]
  | .clrA => some [0xF9#8]
  | .clrbA => some [0xFA#8]
  | .swap => some [0x83#8]
  | .swapb => some [0x83#8]
  | .pushsA => ops.pushsA.map fun c => [c]
  | .pushsLrb => some [0x54#8]
  | .popsA => ops.popsA.map fun c => [c]
  | .popsLrb => ops.popsLrb.map fun c => [c]
  | .rolA => ops.rolA.map fun c => [c]
  | .rolbA => ops.rolA.map fun c => [c]
  | .rorA => some [0x43#8]
  | .rorbA => some [0x43#8]
  | .sllA => some [0x53#8]
  | .sllbA => some [0x53#8]
  | .srlA => ops.srlA.map fun c => [c]
  | .srlbA => ops.srlA.map fun c => [c]
  | .sraA => some [0x73#8]
  | .srabA => some [0x73#8]
  | .incX1 => some [0x70#8]
  | .incX2 => some [0x71#8]
  | .incDp => some [0x72#8]
  | .incLrb => ops.incLrb.map fun c => [c]
  | .decX1 => some [0x80#8]
  | .decX2 => some [0x81#8]
  | .decDp => some [0x82#8]
  | .decLrb => ops.decLrb.map fun c => [c]
  | .mul => some [0x90#8, 0x35#8]
  | .mulb => some [0xA2#8, 0x34#8]
  | .div => some [0x90#8, 0x37#8]
  | .divb => some [0xA2#8, 0x36#8]
  | .daa => some [0x93#8]
  | .das => some [0x94#8]
  | .extnd => some [0xF8#8]
  | .rt => some [0x01#8]
  | .rti => some [0x02#8]
  | .sc => some [0x85#8]
  | .rc => some [0x95#8]
  | .brk => some [0xFF#8]
  | .nop => some [0x00#8]

/-- `n` bytes of `w`, the least significant first. -/
def littleEndian (w : Nat) : Nat → List Byte
  | 0 => []
  | n + 1 => BitVec.ofNat 8 w :: littleEndian (w / 256) n

/-- The instruction the decoder reads from the bits `w` of an opcode-table row, the first byte in bits 7..0, every bit
above `nbits` 0, under the candidate opcodes and DD = 0, its value after reset (log entry 33). -/
def decodeTableWord (nbits w : Nat) : Option Instr :=
  match decode Opcodes.candidate false (littleEndian (w % 2 ^ nbits) 6) with
  | .instr i _ => some i
  | .noWordRegister | .incomplete => none

end Sys2Proof
end

