-- ==== Sys2Proof/Machine/Memory.lean ====
section
/-! DEFINITION. A memory as a list of (address, byte) cells in one canonical form: addresses strictly rising, and,
for data memory, no cell equal to what an unlisted address reads as (spec/20_memory.md R60, R61, R71). -/

namespace Sys2Proof.Machine

/-- The listed cells of one 64K-byte space. -/
abbrev Memory := List (Nat × Byte)

/-- What a data byte that nothing has written reads as. DESIGN CHOICE, unsafe (log entry 7): the spec gives RAM no
reset contents (R46). -/
def unwrittenByte : Byte := 0x00#8

/-- The listed byte at `a`, if any. -/
def Memory.cell : Memory → Nat → Option Byte
  | [], _ => none
  | (k, b) :: m, a => if k = a then some b else Memory.cell m a

/-- `m` with the byte `b` listed at `a`, the addresses still rising. -/
def Memory.store : Memory → Nat → Byte → Memory
  | [], a, b => [(a, b)]
  | (k, c) :: m, a, b =>
    if a < k then (a, b) :: (k, c) :: m
    else if a = k then (a, b) :: m
    else (k, c) :: Memory.store m a b

/-- `m` with nothing listed at `a`. -/
def Memory.forget (m : Memory) (a : Nat) : Memory := m.filter fun c => c.1 != a

/-- A read of the data byte at `a`. -/
def Memory.read (m : Memory) (a : Nat) : Byte := (m.cell a).getD unwrittenByte

/-- A write of the data byte at `a`; writing the value an unlisted address reads as removes the cell. -/
def Memory.write (m : Memory) (a : Nat) (b : Byte) : Memory :=
  if b = unwrittenByte then m.forget a else m.store a b

/-- Addresses strictly rising and inside the 64K-byte space. -/
abbrev Memory.sorted (m : Memory) : Prop :=
  m.Pairwise (fun x y => x.1 < y.1) ∧ ∀ c ∈ m, c.1 < 65536

/-- The canonical form of data memory. -/
abbrev Memory.wf (m : Memory) : Prop :=
  Memory.sorted m ∧ ∀ c ∈ m, c.2 ≠ unwrittenByte

/-- The canonical form of any list of cells, with only the addresses `keep` holds of. -/
def Memory.ofCells (keep : Nat → Bool) : List (Nat × Byte) → Memory
  | [] => []
  | (a, b) :: cs =>
    if keep a && decide (a < 65536) then (Memory.ofCells keep cs).write a b else Memory.ofCells keep cs

/-- `m` with the bytes `bs` listed from `a` up, as far as the 64K-byte space goes (program images only). -/
def Memory.load (m : Memory) (a : Nat) : List Byte → Memory
  | [] => m
  | b :: bs => if a < 65536 then Memory.load (m.store a b) (a + 1) bs else m

end Sys2Proof.Machine
end

