-- ==== Sys2Proof/Machine/State.lean ====
section
/-! DEFINITION. The state of the machine (spec/10_state.md R20), the reasons a step can stop, and the state right
after reset (R46, R491). -/

namespace Sys2Proof.Machine

/-- Why the machine stops with a fault: there is no memory at an address. Raised by the memory operations of
Machine/Ops.lean alone; safe (the model stops where a board without memory there does something unknown). -/
inductive Fault where
  /-- a data access to an address `DATA_MAP` marks absent (spec/20_memory.md R71) -/
  | absentData (addr : Word)
  /-- a fetch, vector or table read of a program address where `ROM` is absent (R72) -/
  | absentProgram (addr : Nat)
deriving DecidableEq, Repr

/-- Why the spec gives a step no meaning. Each is safe: nothing can be proved of a run that meets one. -/
inductive Refusal where
  /-- an instruction whose arm of exec has no meaning yet; raised by exec only -/
  | notModelled (mnemonic : String)
  /-- a code the tables make no instruction, with `ILLEGAL_OPCODE` = refuse (spec/30_encoding.md R135); raised by the
  meanings of the prefix and illegal rows -/
  | illegalCode
  /-- a shared code naming er4..er7 while DD = 1 (R108, decision D13); raised by the decoder and the shared forms -/
  | noWordRegister
  /-- a prefixed `A,obj` form run with the DD value its page calls incorrect (R137, decision D15); raised by ALU and
  exchange forms -/
  | ddMismatch
  /-- an instruction that writes PSWH as its object and also a flag that lies in PSWH (spec/10_state.md R34, decision
  D4); raised by the writers of such objects -/
  | pswhFlagOrder
  /-- an access to a peripheral or control register the spec does not describe (spec/20_memory.md R71, decision D10);
  raised by the data-memory operations -/
  | peripheralRegister (addr : Word)
  /-- instruction bytes, a next PC or a return address beyond FFFFH (spec/10_state.md R24, R410, decision D1) -/
  | pcPastEnd
  /-- a relative target outside 0000H..FFFFH (R24, R104, decision D1); raised by the relative jumps and SCAL -/
  | targetOutOfRange
  /-- a push that takes SSP below 0000H or a pop that takes it above FFFFH (spec/20_memory.md R75, decision D1) -/
  | stackPointerOutOfRange
  /-- `±N8[USP]` with a sum outside 0000H..FFFFH (spec/30_encoding.md R119, decision D1) -/
  | displacementOutOfRange
  /-- a based ROM address above FFFFH (R122, decision D1) -/
  | romSumOutOfRange
  /-- a word read of program memory at FFFFH (spec/20_memory.md R72, decision D1) -/
  | romWordPastEnd
deriving DecidableEq, Repr

/-- One choice of the environment at an instruction boundary (spec/60_exceptions.md R460, R461). -/
inductive Turn where
  /-- no event: the CPU runs its next instruction -/
  | instruction
  /-- deliver this event, if it is a member of `INT_LIVE` -/
  | event (e : Event)
deriving DecidableEq, Repr

/-- The environment of a run (R460, R474): its choices at the coming boundaries, as far as they are given, and free
choices from there on without end (R507, log entry 20). -/
structure Environment where
  /-- the given choices at the coming instruction boundaries, the next one first -/
  schedule : List Turn
  /-- how many boundaries have passed: after the schedule the choice at the next one is `Config.freeEvent passed` -/
  passed : Nat
deriving DecidableEq, Repr

/-- The state of the machine (spec/10_state.md R20). Pointing registers and local registers are data memory (R38,
R40); SSP, LRB, PSW and A are also seen at data addresses (R36). -/
structure State where
  /-- the parameters of R9, which no step changes (log entry 1) -/
  cfg : Config
  /-- the accumulator (R21) -/
  a : Word
  /-- the program status word (R25 to R33) -/
  psw : Word
  /-- LRB bits 12..0; bits 15..13 are hard-wired 0 (R35) -/
  lrb : BitVec 13
  /-- the system stack pointer (R37) -/
  ssp : Word
  /-- the program counter (R22, R23) -/
  pc : Word
  /-- data memory (spec/20_memory.md R61) -/
  ram : Memory
  /-- program memory, `ROM` (R60) -/
  rom : Memory
  /-- the environment: what it chooses at the coming instruction boundaries (log entry 20) -/
  env : Environment
  /-- how many free values have been drawn (log entry 9) -/
  draws : Nat
deriving DecidableEq, Repr

/-- The machine right after reset processing (R46, R491), with no program placed (log entries 2, 7, 8). -/
def State.reset : State where
  cfg := Config.candidate
  a := resetA
  psw := resetPsw
  lrb := resetLrb
  ssp := resetSsp
  pc := resetPc
  ram := []
  rom := []
  env := ⟨[], 0⟩
  draws := 0

/-- Why an operation ends without a result. -/
inductive Stop where
  | fault (f : Fault)
  | refusal (r : Refusal)
deriving DecidableEq, Repr

/-- The result of an operation: a value, or why there is none. -/
abbrev Res (α : Type) := Except Stop α

/-- The spec's `refuse(reason)` (spec/00_scope.md R11). -/
def refuse {α : Type} (r : Refusal) : Res α := .error (.refusal r)

/-- A stop because no memory is there. -/
def noMemory {α : Type} (f : Fault) : Res α := .error (.fault f)

/-- The outcome of a step from the result of its operations. -/
def outcome : Res State → Host.Outcome State Fault Refusal
  | .ok s => .next s
  | .error (.fault f) => .fault f
  | .error (.refusal r) => .refused r

end Sys2Proof.Machine
end

