-- ==== Sys2Proof/Machine/Flags.lean ====
section
/-! DEFINITION. The fields of PSW (spec/10_state.md R25 to R33) and every result and flag computation of
spec/42, 43, 45, 46, 47, 48 and 50. -/

namespace Sys2Proof.Machine

/-- The flags whose positions are parameters (R28). -/
inductive Flag where
  | cf | zf | hc | sf
deriving DecidableEq, Repr

/-- The bit of PSW that holds a flag (R28). -/
def Flag.bit (c : Config) : Flag → Nat
  | .cf => c.cfBit
  | .zf => c.zfBit
  | .hc => c.hcBit
  | .sf => c.sfBit

/-- The value of a flag. -/
def State.flag (s : State) (f : Flag) : Bool := s.psw.getLsbD (f.bit s.cfg)

/-- `f <- b`; every other bit of PSW keeps its value. -/
def State.setFlag (s : State) (f : Flag) (b : Bool) : State := { s with psw := setBit s.psw (f.bit s.cfg) b }

/-- DD, the data descriptor, PSW bit 12 (R26). -/
def State.dd (s : State) : Bool := s.psw.getLsbD 12

/-- `DD <- b` (R26). -/
def State.setDd (s : State) (b : Bool) : State := { s with psw := setBit s.psw 12 b }

/-- SCB, the system control base, PSW bits 2..0 (R27). -/
def State.scb (s : State) : BitVec 3 := s.psw.extractLsb' 0 3

/-- AL, the low byte of A (R21). -/
def State.al (s : State) : Byte := loByte s.a

/-- `A <- v`. -/
def State.setA (s : State) (v : Word) : State := { s with a := v }

/-- `AL <- v`; AH is unchanged (R21). -/
def State.setAl (s : State) (v : Byte) : State := { s with a := mkWord (hiByte s.a) v }

/-- `PC <- v`. -/
def State.setPc (s : State) (v : Word) : State := { s with pc := v }

/-- A word read of LRB: bits 15..13 are 0 (R35). -/
def State.lrbWord (s : State) : Word := s.lrb.setWidth 16

/-- A word write of LRB: it stores `v & 1FFFH` (R35). -/
def State.setLrb (s : State) (v : Word) : State := { s with lrb := v.setWidth 13 }

/-- A new value for a word register, one half replaced: `v` with its high or low byte now `b`. -/
def withByte (v : Word) (high : Bool) (b : Byte) : Word :=
  bif high then mkWord b (loByte v) else mkWord (hiByte v) b

/-- One half of a word. -/
def byteOf (v : Word) (high : Bool) : Byte := bif high then hiByte v else loByte v

/-- The next free value and the state that has drawn it (spec/00_scope.md R11 `draw`, log entry 9). -/
def State.draw (s : State) : Word × State := (Config.freeWord s.draws, { s with draws := s.draws + 1 })

/-- A flag that becomes unspecified takes a free value (log entry 9). -/
def State.freeFlag (s : State) (f : Flag) : State := (s.draw.2).setFlag f (s.draw.1.getLsbD 0)

/-- The operations of the ALU families (spec/45_arithmetic.md R293, spec/46_logic.md R340, spec/47_compare.md R370). -/
inductive AluOp where
  | add | adc | sub | sbc | cmp | and | or | xor
deriving DecidableEq, Repr

/-- A compare stores no result (R370). -/
def AluOp.stores : AluOp → Bool
  | .cmp => false
  | _ => true

/-- The logical operations, which write ZF alone (R340). -/
def AluOp.isLogic : AluOp → Bool
  | .and | .or | .xor => true
  | _ => false

/-- What an ALU operation gives: its result, and CF and HC where the operation writes them. -/
structure AluOut (w : Nat) where
  result : BitVec w
  carry : Option Bool
  half : Option Bool
deriving DecidableEq, Repr

/-- The sum of R293, the carry of R296 and the half carry of R297. -/
def addOut {w : Nat} (a b : BitVec w) (c : Bool) : AluOut w where
  result := BitVec.ofNat w (a.toNat + b.toNat + c.toNat)
  carry := some (decide (2 ^ w ≤ a.toNat + b.toNat + c.toNat))
  half := some (decide (16 ≤ a.toNat % 16 + b.toNat % 16 + c.toNat))

/-- The difference of R293, the borrow of R296 and the half borrow of R297. -/
def subOut {w : Nat} (a b : BitVec w) (c : Bool) : AluOut w where
  result := BitVec.ofInt w ((a.toNat : Int) - (b.toNat : Int) - (c.toNat : Int))
  carry := some (decide (a.toNat < b.toNat + c.toNat))
  half := some (decide (a.toNat % 16 < b.toNat % 16 + c.toNat))

/-- `a op b` with carry-in `c` (R293, R296, R297, R340, R370). -/
def alu {w : Nat} (op : AluOp) (a b : BitVec w) (c : Bool) : AluOut w :=
  match op with
  | .add => addOut a b false
  | .adc => addOut a b c
  | .sub => subOut a b false
  | .sbc => subOut a b c
  | .cmp => { subOut a b false with half := none }
  | .and => ⟨a &&& b, none, none⟩
  | .or => ⟨a ||| b, none, none⟩
  | .xor => ⟨a ^^^ b, none, none⟩

/-- A flag written with `b` where there is a value, unchanged where there is none. -/
def State.setFlag? (s : State) (f : Flag) : Option Bool → State
  | none => s
  | some b => s.setFlag f b

/-- The flags of a byte operation: ZF from the result, CF and HC where written (R293, R296, R297). -/
def State.aluFlagsB (s : State) (r : AluOut 8) : State :=
  ((s.setFlag .zf (r.result == 0#8)).setFlag? .cf r.carry).setFlag? .hc r.half

/-- The flags of a word operation: where HC is written it becomes unspecified (R297), a free value (log entry 12). -/
def State.aluFlagsW (s : State) (r : AluOut 16) : State :=
  let s' := (s.setFlag .zf (r.result == 0#16)).setFlag? .cf r.carry
  bif r.half.isSome then s'.freeFlag .hc else s'

/-- The rotates and shifts (spec/42_rotate_shift.md R230). -/
inductive ShiftOp where
  | rol | ror | sll | srl | sra
deriving DecidableEq, Repr

/-- The shifted value and the bit shifted out, with carry-in `c` (R231 to R245). -/
def shiftOut {w : Nat} (op : ShiftOp) (v : BitVec w) (c : Bool) : BitVec w × Bool :=
  match op with
  | .rol => (setBit (v <<< 1) 0 c, v.msb)
  | .ror => (setBit (v >>> 1) (w - 1) c, v.getLsbD 0)
  | .sll => (v <<< 1, v.msb)
  | .srl => (v >>> 1, v.getLsbD 0)
  | .sra => (v.sshiftRight 1, v.getLsbD 0)

/-- Increment or decrement (spec/43_inc_dec.md R260). -/
inductive StepOp where
  | inc | dec
deriving DecidableEq, Repr

/-- `v + 1` or `v - 1` modulo 2^w (R260). -/
def stepOut {w : Nat} (op : StepOp) (v : BitVec w) : BitVec w :=
  match op with
  | .inc => v + 1
  | .dec => v - 1

/-- The second flag of R260, chosen by `INCDEC_SECOND_FLAG`, from the value read. -/
def State.stepSecond {w : Nat} (s : State) (op : StepOp) (v : BitVec w) : State :=
  match s.cfg.incDecFlag, op with
  | .hc, .inc => s.setFlag .hc (v.toNat % 16 == 15)
  | .hc, .dec => s.setFlag .hc (v.toNat % 16 == 0)
  | .cf, .inc => s.setFlag .cf (v == BitVec.allOnes w)
  | .cf, .dec => s.setFlag .cf (v == 0)

/-- DAA on AL: the adjusted byte, CF and HC (spec/48_decimal_extend.md R381). -/
def daaOut (al : Byte) (cf hc : Bool) : Byte × Bool × Bool :=
  let low := decide (10 ≤ al.toNat % 16) || hc
  let s1 := al.toNat + (bif low then 6 else 0)
  let hc' := bif low then decide (15 < al.toNat % 16 + 6) else hc
  let c1 := cf || decide (255 < s1)
  let v := s1 % 256
  let high := decide (10 ≤ v / 16) || c1
  let s2 := v + (bif high then 0x60 else 0)
  (BitVec.ofNat 8 s2, c1 || decide (255 < s2), hc')

/-- DAS on AL: the adjusted byte (R382, the Function line, decision D20). CF is unchanged, HC becomes 0. -/
def dasOut (al : Byte) (cf hc : Bool) : Byte :=
  let v := bif decide (10 ≤ al.toNat % 16) || hc then al - 0x06#8 else al
  bif decide (10 ≤ v.toNat / 16) || cf then v - 0x60#8 else v

/-- The conditions of JC (spec/50_jump_call.md R419). -/
inductive Cond where
  | gt | eq | lt | ge | ne | le
deriving DecidableEq, Repr

/-- When a condition is true (R419; GT is the conjunction, conflict C8). -/
def Cond.holds (c : Cond) (zf cf : Bool) : Bool :=
  match c with
  | .gt => !zf && !cf
  | .eq => zf
  | .lt => cf
  | .ge => !cf
  | .ne => !zf
  | .le => zf || cf

end Sys2Proof.Machine
end

