-- ==== Sys2Proof/Machine/Ops.lean ====
section
/-! DEFINITION. The named operations over memory, registers and PC: data memory (spec/20_memory.md R64 to R71),
program memory (R72), the system stack (R75), and taking an event (spec/60_exceptions.md R453, R462). -/

namespace Sys2Proof.Machine

/-- The four CPU registers that data memory also shows (spec/10_state.md R36). -/
inductive CpuReg where
  | ssp | lrb | psw | acc
deriving DecidableEq, Repr

/-- A word read of a CPU register. -/
def State.reg (s : State) : CpuReg → Word
  | .ssp => s.ssp
  | .lrb => s.lrbWord
  | .psw => s.psw
  | .acc => s.a

/-- A word write of a CPU register, with the write mask of its register form (R35, R36). -/
def State.setReg (s : State) (r : CpuReg) (v : Word) : State :=
  match r with
  | .ssp => { s with ssp := v }
  | .lrb => s.setLrb v
  | .psw => { s with psw := v }
  | .acc => s.setA v

/-- The CPU register at a data address, by `ADDR_*` (R36): the two bytes at the even address and the next. -/
def regAt (c : Config) (ea : Word) : Option CpuReg :=
  if c.addrSsp = some (evenAddr ea) then some .ssp
  else if c.addrLrb = some (evenAddr ea) then some .lrb
  else if c.addrPsw = some (evenAddr ea) then some .psw
  else if c.addrAcc = some (evenAddr ea) then some .acc
  else none

/-- What a data address is (R71). -/
inductive Place where
  | ram
  /-- the low or high byte of a CPU register -/
  | reg (r : CpuReg) (high : Bool)
  | sfr
  | absent
deriving DecidableEq, Repr

/-- The kind of the first range of `DATA_MAP` that holds the address. -/
def regionAt : List Region → Nat → Option RegionKind
  | [], _ => none
  | r :: rs, a => if r.first ≤ a ∧ a ≤ r.last then some r.kind else regionAt rs a

/-- `DATA_MAP(ea)` (R71), the CPU registers first. -/
def place (c : Config) (ea : Word) : Place :=
  match regAt c ea with
  | some r => .reg r (ea.getLsbD 0)
  | none =>
    match regionAt c.regions ea.toNat with
    | some .ram => .ram
    | some .sfr => .sfr
    | none => .absent

/-- `MemRead(ea, 1)`: D(ea) (R70, R71). -/
def readByte (s : State) (ea : Word) : Res Byte :=
  match place s.cfg ea with
  | .ram => .ok (s.ram.read ea.toNat)
  | .reg r high => .ok (byteOf (s.reg r) high)
  | .sfr => refuse (.peripheralRegister ea)
  | .absent => noMemory (.absentData ea)

/-- `MemWrite(ea, 1, v)`: D(ea) <- v (R70, R71). -/
def writeByte (s : State) (ea : Word) (v : Byte) : Res State :=
  match place s.cfg ea with
  | .ram => .ok { s with ram := s.ram.write ea.toNat v }
  | .reg r high => .ok (s.setReg r (withByte (s.reg r) high v))
  | .sfr => refuse (.peripheralRegister ea)
  | .absent => noMemory (.absentData ea)

/-- `MemRead(ea, 2)`: the word at `ea & FFFEH`, low byte first (R64, R66, R70). -/
def readWord (s : State) (ea : Word) : Res Word := do
  let lo ← readByte s (evenAddr ea)
  let hi ← readByte s (evenAddr ea + 1)
  .ok (mkWord hi lo)

/-- `MemWrite(ea, 2, v)`: the word at `ea & FFFEH`, low byte first (R64, R66, R70). -/
def writeWord (s : State) (ea : Word) (v : Word) : Res State := do
  let s1 ← writeByte s (evenAddr ea) (loByte v)
  writeByte s1 (evenAddr ea + 1) (hiByte v)

/-- `RomRead(a, 1)`: ROM(a) (R72). -/
def romByte (s : State) (a : Nat) : Res Byte :=
  match s.rom.cell a with
  | some b => .ok b
  | none => noMemory (.absentProgram a)

/-- `RomRead(a, 2)`: ROM(a) + 256 * ROM(a + 1), no alignment (R68, R72). -/
def romWord (s : State) (a : Word) : Res Word :=
  if a = 0xFFFF#16 then refuse .romWordPastEnd
  else do
    let lo ← romByte s a.toNat
    let hi ← romByte s (a.toNat + 1)
    .ok (mkWord hi lo)

/-- `Push16(v)` (R75): a store at SSP, then SSP <- SSP - 2. DESIGN CHOICE (log entry 22): where the store lands at
`ADDR_SSP`, SSP becomes the old SSP less 2, not the stored word less 2. -/
def push16 (v : Word) (s : State) : Res State :=
  if 2 ≤ s.ssp.toNat then do
    let s1 ← writeWord s s.ssp v
    .ok { s1 with ssp := s.ssp - 2 }
  else refuse .stackPointerOutOfRange

/-- `Pop16()` (R75): SSP <- SSP + 2, then the word at SSP. DESIGN CHOICE (log entry 22): where that word is the one at
`ADDR_SSP`, R75 writes SSP before it reads and R43 (decision D6) reads sources first; the model follows R43, so the pop
gives the SSP of before the pop. -/
def pop16 (s : State) : Res (Word × State) :=
  if s.ssp.toNat + 2 ≤ 0xFFFF then do
    let v ← readWord s (s.ssp + 2)
    .ok (v, { s with ssp := s.ssp + 2 })
  else refuse .stackPointerOutOfRange

/-- `PC <- PC + n` (spec/10_state.md R23, R24): refused where the next PC would pass FFFFH. -/
def advance (n : Nat) (s : State) : Res State :=
  if s.pc.toNat + n ≤ 0xFFFF then .ok { s with pc := s.pc + BitVec.ofNat 16 n } else refuse .pcPastEnd

/-- An instruction of `n` bytes that does not transfer control: its operation, then PC moves past it (R23). -/
def finish (n : Nat) (r : Res State) : Host.Outcome State Fault Refusal := outcome (r.bind (advance n))

/-- `PC* + sext_8(rel8)`, `PC* = PC + n` (spec/30_encoding.md R104, spec/50_jump_call.md R411). -/
def relTarget (s : State) (n : Nat) (rel : Byte) : Res Word :=
  let t : Int := (s.pc.toNat : Int) + (n : Int) + rel.toInt
  if 0 ≤ t ∧ t ≤ 0xFFFF then .ok (BitVec.ofInt 16 t) else refuse .targetOutOfRange

/-- The address of the instruction after one of `n` bytes, as a call saves it (R425). -/
def returnAddress (s : State) (n : Nat) : Res Word :=
  if s.pc.toNat + n ≤ 0xFFFF then .ok (s.pc + BitVec.ofNat 16 n) else refuse .pcPastEnd

/-- Whether a data address holds stored bytes. -/
def isRam (c : Config) (a : Nat) : Bool := place c (BitVec.ofNat 16 a) == .ram

/-- What reset processing leaves (spec/70_reset_and_hazards.md R491, R492; spec/60_exceptions.md R453): DD = 0; A, the
rest of PSW, LRB and SSP unspecified, and RAM too unless `RESET_KEEPS_RAM`: free values (log entry 10). -/
def resetProcessing (s : State) : State :=
  { s with
    a := Config.freeWord s.draws
    psw := setBit (Config.freeWord (s.draws + 1)) 12 false
    lrb := (Config.freeWord (s.draws + 2)).setWidth 13
    ssp := Config.freeWord (s.draws + 3)
    ram := bif s.cfg.resetKeepsRam then s.ram else Memory.ofCells (isRam s.cfg) (Config.freeCells s.draws)
    draws := s.draws + 4 }

/-- The causes of a reset-class event (R450, R452). -/
inductive ResetCause where
  | resetPin | brk | watchdog | opcodeTrap
deriving DecidableEq, Repr

/-- The vector-table entry of a reset-class event (R452). -/
def ResetCause.vector : ResetCause → Word
  | .resetPin => 0x0000#16
  | .brk => 0x0002#16
  | .watchdog => 0x0004#16
  | .opcodeTrap => 0x0004#16

/-- `Reset(cause)` (R453): reset processing, DD <- 0, PC <- the vector word; nothing is pushed. -/
def takeReset (cause : ResetCause) (s : State) : Res State := do
  let v ← romWord s cause.vector
  .ok ((resetProcessing s).setPc v)

end Sys2Proof.Machine

namespace Sys2Proof

/-- The vector-table entry of an interrupt (spec/60_exceptions.md R452). -/
def IntSource.vector : IntSource → Word
  | .nmi => 0x0006#16
  | .int0 => 0x0008#16
  | .serialReceive => 0x000A#16
  | .serialTransmit => 0x000C#16
  | .brgReceive => 0x000E#16
  | .timer0Overflow => 0x0010#16
  | .timer0Event => 0x0012#16
  | .timer1Overflow => 0x0014#16
  | .timer1Event => 0x0016#16
  | .timer2Overflow => 0x0018#16
  | .timer2Event => 0x001A#16
  | .timer3Overflow => 0x001C#16
  | .timer3Event => 0x001E#16
  | .adEnd => 0x0020#16
  | .pwmOverflow => 0x0022#16
  | .brgTransmit => 0x0024#16
  | .int1 => 0x0026#16

end Sys2Proof

namespace Sys2Proof.Machine

/-- `Interrupt(v)` (R462): PC, A, LRB and PSW pushed in that order, PC <- the vector word; nothing else changes
(R463). DESIGN CHOICE (log entry 22): where an earlier push of the entry lands on the data address of A, LRB or PSW, the
later push saves that register as it was before the entry, not as the earlier push has left it. -/
def takeInterrupt (src : IntSource) (s : State) : Res State := do
  let s1 ← push16 s.pc s
  let s2 ← push16 s.a s1
  let s3 ← push16 s.lrbWord s2
  let s4 ← push16 s.psw s3
  let v ← romWord s src.vector
  .ok (s4.setPc v)

/-- The return from an interrupt (spec/50_jump_call.md R428): PSW, LRB, A and PC popped in that order. -/
def returnFromInterrupt (s : State) : Res State := do
  let (psw, s1) ← pop16 s
  let (lrb, s2) ← pop16 s1
  let (a, s3) ← pop16 s2
  let (pc, s4) ← pop16 s3
  .ok ((({ s4 with psw := psw }).setLrb lrb).setA a |>.setPc pc)

/-- The event the environment delivers at an instruction boundary (R460): a watchdog reset or an interrupt. -/
def takeEvent (e : Event) (s : State) : Res State :=
  match e with
  | .watchdog => takeReset .watchdog s
  | .interrupt src => takeInterrupt src s

/-- An illegal code (spec/30_encoding.md R135, spec/60_exceptions.md R456): refused, or the operation-code trap. -/
def illegalCode (s : State) : Res State :=
  match s.cfg.illegalOpcode with
  | .refuse => refuse .illegalCode
  | .optrap => takeReset .opcodeTrap s

end Sys2Proof.Machine
end

