-- ==== Sys2Proof/Machine/Operands.lean ====
section
/-! DEFINITION. The addressing objects at run time: where each lies, its read and its write (spec/30_encoding.md R110
to R122, spec/10_state.md R38 to R43). -/

namespace Sys2Proof.Machine

/-- The four pointing registers of a set (spec/10_state.md R38). -/
inductive Ptr where
  | x1 | x2 | dp | usp
deriving DecidableEq, Repr

/-- The offset of a pointing register in its set (R38). -/
def Ptr.offset : Ptr → Word
  | .x1 => 0
  | .x2 => 2
  | .dp => 4
  | .usp => 6

/-- `addr(X1)` to `addr(USP)`: 0080H + 8 * SCB + offset (R38). -/
def ptrAddr (s : State) (p : Ptr) : Word := 0x0080#16 + 8#16 * s.scb.setWidth 16 + p.offset

/-- `lrbase`: the thirteen bits of LRB and three zero bits (spec/10_state.md R40). -/
def lrBase (s : State) : Word := s.lrbWord <<< 3

/-- `ea(rN)` (R41). -/
def rAddr (s : State) (n : BitVec 3) : Word := lrBase s + n.setWidth 16

/-- `ea(erN)` (R42). -/
def erAddr (s : State) (n : BitVec 2) : Word := lrBase s + 2#16 * n.setWidth 16

/-- `ea(off N8)`: page LRB[12:5], offset N8 (spec/30_encoding.md R116). -/
def pageAddr (s : State) (n : Byte) : Word := mkWord (s.lrb.extractLsb' 5 8) n

/-- `ea(N8)` (R117). -/
def zeroPageAddr (n : Byte) : Word := n.setWidth 16

/-- `ea(±N8[USP])` (R119): refused where the sum leaves 0000H..FFFFH. -/
def displaced (base : Word) (n : Byte) : Res Word :=
  let t : Int := (base.toNat : Int) + n.toInt
  if 0 ≤ t ∧ t ≤ 0xFFFF then .ok (BitVec.ofInt 16 t) else refuse .displacementOutOfRange

/-- Where a word object is. -/
inductive WLoc where
  | ssp
  | lrb
  /-- the word of data memory at `ea & FFFEH` -/
  | mem (ea : Word)
deriving DecidableEq, Repr

/-- Where a byte object is. -/
inductive BLoc where
  | pswh
  | pswl
  /-- the byte of data memory at `ea` -/
  | mem (ea : Word)
deriving DecidableEq, Repr

/-- `ea(obj)` of a word object (R112 to R120). -/
def wordLoc (s : State) : WObj → Res WLoc
  | .er n => .ok (.mem (erAddr s n))
  | .x1 => .ok (.mem (ptrAddr s .x1))
  | .x2 => .ok (.mem (ptrAddr s .x2))
  | .dp => .ok (.mem (ptrAddr s .dp))
  | .usp => .ok (.mem (ptrAddr s .usp))
  | .ssp => .ok .ssp
  | .lrb => .ok .lrb
  | .off n => .ok (.mem (pageAddr s n))
  | .zp n => .ok (.mem (zeroPageAddr n))
  | .dpInd => do
    let p ← readWord s (ptrAddr s .dp)
    .ok (.mem p)
  | .uspInd n => do
    let p ← readWord s (ptrAddr s .usp)
    let ea ← displaced p n
    .ok (.mem ea)
  | .x1Ind n => do
    let p ← readWord s (ptrAddr s .x1)
    .ok (.mem (n + p))
  | .x2Ind n => do
    let p ← readWord s (ptrAddr s .x2)
    .ok (.mem (n + p))

/-- `ea(obj)` of a byte object (R113, R114, R116 to R120). -/
def byteLoc (s : State) : BObj → Res BLoc
  | .r n => .ok (.mem (rAddr s n))
  | .pswh => .ok .pswh
  | .pswl => .ok .pswl
  | .off n => .ok (.mem (pageAddr s n))
  | .zp n => .ok (.mem (zeroPageAddr n))
  | .dpInd => do
    let p ← readWord s (ptrAddr s .dp)
    .ok (.mem p)
  | .uspInd n => do
    let p ← readWord s (ptrAddr s .usp)
    let ea ← displaced p n
    .ok (.mem ea)
  | .x1Ind n => do
    let p ← readWord s (ptrAddr s .x1)
    .ok (.mem (n + p))
  | .x2Ind n => do
    let p ← readWord s (ptrAddr s .x2)
    .ok (.mem (n + p))

/-- A word read at a location. -/
def readW (s : State) : WLoc → Res Word
  | .ssp => .ok s.ssp
  | .lrb => .ok s.lrbWord
  | .mem ea => readWord s ea

/-- A word write at a location (R35 for LRB). -/
def writeW (s : State) (l : WLoc) (v : Word) : Res State :=
  match l with
  | .ssp => .ok (s.setReg .ssp v)
  | .lrb => .ok (s.setReg .lrb v)
  | .mem ea => writeWord s ea v

/-- A byte read at a location. -/
def readB (s : State) : BLoc → Res Byte
  | .pswh => .ok (hiByte s.psw)
  | .pswl => .ok (loByte s.psw)
  | .mem ea => readByte s ea

/-- A byte write at a location. -/
def writeB (s : State) (l : BLoc) (v : Byte) : Res State :=
  match l with
  | .pswh => .ok (s.setReg .psw (withByte s.psw true v))
  | .pswl => .ok (s.setReg .psw (withByte s.psw false v))
  | .mem ea => writeByte s ea v

/-- `rd(obj, 2)` (spec/00_scope.md R11). -/
def loadW (s : State) (o : WObj) : Res Word := do
  let l ← wordLoc s o
  readW s l

/-- `rd(obj, 1)`. -/
def loadB (s : State) (o : BObj) : Res Byte := do
  let l ← byteLoc s o
  readB s l

/-- `wr(obj, 2, v)`. -/
def storeW (s : State) (o : WObj) (v : Word) : Res State := do
  let l ← wordLoc s o
  writeW s l v

/-- `wr(obj, 1, v)`. -/
def storeB (s : State) (o : BObj) (v : Byte) : Res State := do
  let l ← byteLoc s o
  writeB s l v

/-- Whether a word write at a location writes PSWH, by its data address (spec/10_state.md R34, R36; log entry 17). -/
def WLoc.holdsPswh (c : Config) : WLoc → Bool
  | .mem ea => regAt c ea == some .psw
  | _ => false

/-- Whether a byte write at a location writes PSWH, by name or by its data address (R34, R36; log entry 17). -/
def BLoc.holdsPswh (c : Config) : BLoc → Bool
  | .pswh => true
  | .pswl => false
  | .mem ea => regAt c ea == some .psw && ea.getLsbD 0

/-- Whether a word location is LRB, by name or by its data address (spec/43_inc_dec.md R262). -/
def WLoc.isLrb (c : Config) : WLoc → Bool
  | .lrb => true
  | .ssp => false
  | .mem ea => regAt c ea == some .lrb

/-- Whether a byte location is a byte of LRB (R262). -/
def BLoc.isLrb (c : Config) : BLoc → Bool
  | .mem ea => regAt c ea == some .lrb
  | _ => false

/-- A word result and then its flags: refused where the result would land in PSWH (R34). -/
def writeFlagsW (s : State) (l : WLoc) (v : Word) (flags : State → State) : Res State :=
  if l.holdsPswh s.cfg then refuse .pswhFlagOrder
  else do
    let s1 ← writeW s l v
    .ok (flags s1)

/-- A byte result and then its flags: refused where the result would land in PSWH (R34). -/
def writeFlagsB (s : State) (l : BLoc) (v : Byte) (flags : State → State) : Res State :=
  if l.holdsPswh s.cfg then refuse .pswhFlagOrder
  else do
    let s1 ← writeB s l v
    .ok (flags s1)

/-- The word register a shared code names, or none for N = 4..7 (R108). -/
def wordRegister (n : BitVec 3) : Res (BitVec 2) :=
  bif n.msb then refuse .noWordRegister else .ok (n.setWidth 2)

end Sys2Proof.Machine
end

