-- ==== Sys2Proof/Machine/Alu.lean ====
section
/-! DEFINITION. The forms the eight ALU families share (spec/45_arithmetic.md R290 to R298; spec/46_logic.md R340 to
R342; spec/47_compare.md R370, R371). -/

namespace Sys2Proof.Machine

/-- `A <- A op b` with its flags; a compare leaves A as it was (R293, R370). -/
def State.aluAccW (s : State) (op : AluOp) (b : Word) : State :=
  let out := alu op s.a b (s.flag .cf)
  (bif op.stores then s.setA out.result else s).aluFlagsW out

/-- `AL <- AL op b` with its flags, AH unchanged (R293, R370). -/
def State.aluAccB (s : State) (op : AluOp) (b : Byte) : State :=
  let out := alu op s.al b (s.flag .cf)
  (bif op.stores then s.setAl out.result else s).aluFlagsB out

/-- `op A,#N16`: with DD = 0 its code is the B form, of two bytes (R108, R291). -/
def aluImmW (op : AluOp) (n : Word) (s : State) : Host.Outcome State Fault Refusal :=
  if s.dd then finish 3 (.ok (s.aluAccW op n)) else finish 2 (.ok (s.aluAccB op (loByte n)))

/-- The byte of program memory two after the code byte, N_H of the word form. -/
def secondOperandByte (s : State) : Res Byte :=
  if s.pc.toNat + 2 ≤ 0xFFFF then romByte s (s.pc.toNat + 2) else refuse .pcPastEnd

/-- `opB A,#N8`: with DD = 1 its code is the word form, of three bytes (R108, R291). -/
def aluImmB (op : AluOp) (n : Byte) (s : State) : Host.Outcome State Fault Refusal :=
  if s.dd then
    finish 3 <| do
      let hi ← secondOperandByte s
      .ok (s.aluAccW op (mkWord hi n))
  else finish 2 (.ok (s.aluAccB op n))

/-- `op A,erN` and `opB A,rN`, one code: DD chooses (R108, R291). -/
def aluReg (op : AluOp) (n : BitVec 3) (s : State) : Host.Outcome State Fault Refusal :=
  finish 1 <|
    if s.dd then do
      let e ← wordRegister n
      let v ← loadW s (.er e)
      .ok (s.aluAccW op v)
    else do
      let v ← loadB s (.r n)
      .ok (s.aluAccB op v)

/-- `op A,off N8` and `opB A,off N8`, one code: DD chooses (R108, R291). -/
def aluOff (op : AluOp) (n : Byte) (s : State) : Host.Outcome State Fault Refusal :=
  finish 2 <|
    if s.dd then do
      let v ← loadW s (.off n)
      .ok (s.aluAccW op v)
    else do
      let v ← loadB s (.off n)
      .ok (s.aluAccB op v)

/-- The prefixed `op A,obj`: DD must be 1 (R137, R291). -/
def aluAObjW (op : AluOp) (o : WObj) (s : State) : Host.Outcome State Fault Refusal :=
  if s.dd then
    finish (o.prefixLen + 1) <| do
      let v ← loadW s o
      .ok (s.aluAccW op v)
  else outcome (refuse .ddMismatch)

/-- The prefixed `opB A,obj`: DD must be 0 (R137, R291). -/
def aluAObjB (op : AluOp) (o : BObj) (s : State) : Host.Outcome State Fault Refusal :=
  if s.dd then outcome (refuse .ddMismatch)
  else
    finish (o.prefixLen + 1) <| do
      let v ← loadB s o
      .ok (s.aluAccB op v)

/-- `obj <- obj op b`, the object written and then the flags; a compare writes the flags alone (R293, R298, R370). -/
def aluObjW (op : AluOp) (o : WObj) (source : State → Res Word) (s : State) : Res State := do
  let l ← wordLoc s o
  let v ← readW s l
  let b ← source s
  let out := alu op v b (s.flag .cf)
  if op.stores then writeFlagsW s l out.result fun t => t.aluFlagsW out else .ok (s.aluFlagsW out)

/-- `obj <- obj op b` at 8 bits; object PSWH is refused where the result is stored (R298, R342, R34). -/
def aluObjB (op : AluOp) (o : BObj) (source : State → Res Byte) (s : State) : Res State := do
  let l ← byteLoc s o
  let v ← readB s l
  let b ← source s
  let out := alu op v b (s.flag .cf)
  if op.stores then writeFlagsB s l out.result fun t => t.aluFlagsB out else .ok (s.aluFlagsB out)

/-- `ANDB`, `ORB` and `XORB obj,#N8`: on PSWH the byte is written and ZF is not (R342, R34). -/
def logicImmB (op : AluOp) (o : BObj) (n : Byte) (s : State) : Res State := do
  let l ← byteLoc s o
  let v ← readB s l
  let out := alu op v n (s.flag .cf)
  let s1 ← writeB s l out.result
  .ok (bif l.holdsPswh s.cfg then s1 else s1.aluFlagsB out)

end Sys2Proof.Machine
end

