-- ==== Sys2Proof/Machine/Arithmetic.lean ====
section
/-! DEFINITION. Arithmetic (spec/45_arithmetic.md R290 to R336). -/

namespace Sys2Proof.Machine

/-- ZF after MUL and DIV: 1 for a zero value, 0 where the low word is not 0, else unspecified (R300, R302; log entry
13). -/
def State.wideZero (s : State) (value low : Nat) : State :=
  if value = 0 then s.setFlag .zf true
  else if low = 0 then s.freeFlag .zf
  else s.setFlag .zf false

/-- MUL (R300): `er1 : A <- A * er0`, unsigned. -/
def multiply (s : State) : Res State := do
  let b ← loadW s (.er 0)
  let l ← wordLoc s (.er 1)
  let p := s.a.toNat * b.toNat
  writeFlagsW s l (BitVec.ofNat 16 (p / 65536)) fun t =>
    (t.setA (BitVec.ofNat 16 p)).wideZero p (p % 65536)

/-- MULB (R301): `A <- AL * r0`, unsigned. -/
def multiplyB (s : State) : Res State := do
  let b ← loadB s (.r 0)
  let p := BitVec.ofNat 16 (s.al.toNat * b.toNat)
  .ok ((s.setA p).setFlag .zf (p == 0#16))

/-- DIV (R302): quotient to `er0 : A`, remainder to er1, CF = 0; by zero, CF = 1 and er0, A, er1 and ZF free values
(R304, log entry 11). -/
def divide (s : State) : Res State := do
  let hi ← loadW s (.er 0)
  let d ← loadW s (.er 2)
  let l0 ← wordLoc s (.er 0)
  let l1 ← wordLoc s (.er 1)
  let n := hi.toNat * 65536 + s.a.toNat
  if d = 0 then
    let (q1, s1) := s.draw
    let (q0, s2) := s1.draw
    let (r, s3) := s2.draw
    if l0.holdsPswh s.cfg then refuse .pswhFlagOrder
    else do
      let s4 ← writeW s3 l0 q1
      writeFlagsW (s4.setA q0) l1 r fun t => (t.setFlag .cf true).freeFlag .zf
  else
    let q := n / d.toNat
    if l0.holdsPswh s.cfg then refuse .pswhFlagOrder
    else do
      let s1 ← writeW s l0 (BitVec.ofNat 16 (q / 65536))
      writeFlagsW (s1.setA (BitVec.ofNat 16 q)) l1 (BitVec.ofNat 16 (n % d.toNat)) fun t =>
        (t.setFlag .cf false).wideZero q (q % 65536)

/-- DIVB (R303): quotient to A, remainder to r1, CF = 0; by zero, CF = 1 and A, r1 and ZF free values (R304, log entry
11). -/
def divideB (s : State) : Res State := do
  let d ← loadB s (.r 0)
  let l ← byteLoc s (.r 1)
  if d = 0 then
    let (q, s1) := s.draw
    let (r, s2) := s1.draw
    writeFlagsB (s2.setA q) l (loByte r) fun t => (t.setFlag .cf true).freeFlag .zf
  else
    let q := BitVec.ofNat 16 (s.a.toNat / d.toNat)
    writeFlagsB (s.setA q) l (BitVec.ofNat 8 (s.a.toNat % d.toNat)) fun t =>
      (t.setFlag .cf false).setFlag .zf (q == 0#16)

/-- `MUL` = 90 35 (R300). -/
def execMul (s : State) : Host.Outcome State Fault Refusal :=
  finish 2 (multiply s)

/-- `MULB` = A2 34 (R301). -/
def execMulb (s : State) : Host.Outcome State Fault Refusal :=
  finish 2 (multiplyB s)

/-- `DIV` = 90 37 (R302). -/
def execDiv (s : State) : Host.Outcome State Fault Refusal :=
  finish 2 (divide s)

/-- `DIVB` = A2 36 (R303). -/
def execDivb (s : State) : Host.Outcome State Fault Refusal :=
  finish 2 (divideB s)

/-- `ADD A,#N16` = 86 N_L N_H (R305). -/
def execAddAImm (n : Word) (s : State) : Host.Outcome State Fault Refusal :=
  aluImmW .add n s

/-- `ADDB A,#N8` = 86 N8 (R309). -/
def execAddbAImm (n : Byte) (s : State) : Host.Outcome State Fault Refusal :=
  aluImmB .add n s

/-- `ADD A,erN` = 08+N (R305). -/
def execAddAEr (r : BitVec 2) (s : State) : Host.Outcome State Fault Refusal :=
  aluReg .add (r.setWidth 3) s

/-- `ADDB A,rN` = 08+N (R309). -/
def execAddbAR (r : BitVec 3) (s : State) : Host.Outcome State Fault Refusal :=
  aluReg .add r s

/-- `ADD A,off N8` = 87 N8 (R305). -/
def execAddAOff (n : Byte) (s : State) : Host.Outcome State Fault Refusal :=
  aluOff .add n s

/-- `ADDB A,off N8` = 87 N8 (R309). -/
def execAddbAOff (n : Byte) (s : State) : Host.Outcome State Fault Refusal :=
  aluOff .add n s

/-- `ADD A,obj` = wp 82 (R305). -/
def execAddAObj (o : WObj) (s : State) : Host.Outcome State Fault Refusal :=
  aluAObjW .add o s

/-- `ADDB A,obj` = bp 82 (R309). -/
def execAddbAObj (o : BObj) (s : State) : Host.Outcome State Fault Refusal :=
  aluAObjB .add o s

/-- `ADD obj,A` = wp 81 (R306). -/
def execAddObjA (o : WObj) (s : State) : Host.Outcome State Fault Refusal :=
  finish (o.prefixLen + 1) (aluObjW .add o (fun s => .ok s.a) s)

/-- `ADDB obj,A` = bp 81 (R310). -/
def execAddbObjA (o : BObj) (s : State) : Host.Outcome State Fault Refusal :=
  finish (o.prefixLen + 1) (aluObjB .add o (fun s => .ok s.al) s)

/-- `ADD obj,off N8` = wp 83 N8 (R307). -/
def execAddObjOff (o : WObj) (n : Byte) (s : State) : Host.Outcome State Fault Refusal :=
  finish (o.prefixLen + 2) (aluObjW .add o (fun s => loadW s (.off n)) s)

/-- `ADDB obj,off N8` = bp 83 N8 (R311). -/
def execAddbObjOff (o : BObj) (n : Byte) (s : State) : Host.Outcome State Fault Refusal :=
  finish (o.prefixLen + 2) (aluObjB .add o (fun s => loadB s (.off n)) s)

/-- `ADD obj,#N16` = wp 80 N_L N_H (R308). -/
def execAddObjImm (o : WObj) (n : Word) (s : State) : Host.Outcome State Fault Refusal :=
  finish (o.prefixLen + 3) (aluObjW .add o (fun _ => .ok n) s)

/-- `ADDB obj,#N8` = bp 80 N8 (R312). -/
def execAddbObjImm (o : BObj) (n : Byte) (s : State) : Host.Outcome State Fault Refusal :=
  finish (o.prefixLen + 2) (aluObjB .add o (fun _ => .ok n) s)

/-- `ADC A,#N16` = 96 N_L N_H (R313). -/
def execAdcAImm (n : Word) (s : State) : Host.Outcome State Fault Refusal :=
  aluImmW .adc n s

/-- `ADCB A,#N8` = 96 N8 (R317). -/
def execAdcbAImm (n : Byte) (s : State) : Host.Outcome State Fault Refusal :=
  aluImmB .adc n s

/-- `ADC A,erN` = 18+N (R313). -/
def execAdcAEr (r : BitVec 2) (s : State) : Host.Outcome State Fault Refusal :=
  aluReg .adc (r.setWidth 3) s

/-- `ADCB A,rN` = 18+N (R317). -/
def execAdcbAR (r : BitVec 3) (s : State) : Host.Outcome State Fault Refusal :=
  aluReg .adc r s

/-- `ADC A,off N8` = 97 N8 (R313). -/
def execAdcAOff (n : Byte) (s : State) : Host.Outcome State Fault Refusal :=
  aluOff .adc n s

/-- `ADCB A,off N8` = 97 N8 (R317). -/
def execAdcbAOff (n : Byte) (s : State) : Host.Outcome State Fault Refusal :=
  aluOff .adc n s

/-- `ADC A,obj` = wp 92 (R313). -/
def execAdcAObj (o : WObj) (s : State) : Host.Outcome State Fault Refusal :=
  aluAObjW .adc o s

/-- `ADCB A,obj` = bp 92 (R317). -/
def execAdcbAObj (o : BObj) (s : State) : Host.Outcome State Fault Refusal :=
  aluAObjB .adc o s

/-- `ADC obj,A` = wp 91 (R314). -/
def execAdcObjA (o : WObj) (s : State) : Host.Outcome State Fault Refusal :=
  finish (o.prefixLen + 1) (aluObjW .adc o (fun s => .ok s.a) s)

/-- `ADCB obj,A` = bp 91 (R318). -/
def execAdcbObjA (o : BObj) (s : State) : Host.Outcome State Fault Refusal :=
  finish (o.prefixLen + 1) (aluObjB .adc o (fun s => .ok s.al) s)

/-- `ADC obj,off N8` = wp 93 N8 (R315). -/
def execAdcObjOff (o : WObj) (n : Byte) (s : State) : Host.Outcome State Fault Refusal :=
  finish (o.prefixLen + 2) (aluObjW .adc o (fun s => loadW s (.off n)) s)

/-- `ADCB obj,off N8` = bp 93 N8 (R319). -/
def execAdcbObjOff (o : BObj) (n : Byte) (s : State) : Host.Outcome State Fault Refusal :=
  finish (o.prefixLen + 2) (aluObjB .adc o (fun s => loadB s (.off n)) s)

/-- `ADC obj,#N16` = wp 90 N_L N_H (R316). -/
def execAdcObjImm (o : WObj) (n : Word) (s : State) : Host.Outcome State Fault Refusal :=
  finish (o.prefixLen + 3) (aluObjW .adc o (fun _ => .ok n) s)

/-- `ADCB obj,#N8` = bp 90 N8 (R320). -/
def execAdcbObjImm (o : BObj) (n : Byte) (s : State) : Host.Outcome State Fault Refusal :=
  finish (o.prefixLen + 2) (aluObjB .adc o (fun _ => .ok n) s)

/-- `SUB A,#N16` = A6 N_L N_H (R321). -/
def execSubAImm (n : Word) (s : State) : Host.Outcome State Fault Refusal :=
  aluImmW .sub n s

/-- `SUBB A,#N8` = A6 N8 (R325). -/
def execSubbAImm (n : Byte) (s : State) : Host.Outcome State Fault Refusal :=
  aluImmB .sub n s

/-- `SUB A,erN` = 28+N (R321). -/
def execSubAEr (r : BitVec 2) (s : State) : Host.Outcome State Fault Refusal :=
  aluReg .sub (r.setWidth 3) s

/-- `SUBB A,rN` = 28+N (R325). -/
def execSubbAR (r : BitVec 3) (s : State) : Host.Outcome State Fault Refusal :=
  aluReg .sub r s

/-- `SUB A,off N8` = A7 N8 (R321). -/
def execSubAOff (n : Byte) (s : State) : Host.Outcome State Fault Refusal :=
  aluOff .sub n s

/-- `SUBB A,off N8` = A7 N8 (R325). -/
def execSubbAOff (n : Byte) (s : State) : Host.Outcome State Fault Refusal :=
  aluOff .sub n s

/-- `SUB A,obj` = wp A2 (R321). -/
def execSubAObj (o : WObj) (s : State) : Host.Outcome State Fault Refusal :=
  aluAObjW .sub o s

/-- `SUBB A,obj` = bp A2 (R325). -/
def execSubbAObj (o : BObj) (s : State) : Host.Outcome State Fault Refusal :=
  aluAObjB .sub o s

/-- `SUB obj,A` = wp A1 (R322). -/
def execSubObjA (o : WObj) (s : State) : Host.Outcome State Fault Refusal :=
  finish (o.prefixLen + 1) (aluObjW .sub o (fun s => .ok s.a) s)

/-- `SUBB obj,A` = bp A1 (R326). -/
def execSubbObjA (o : BObj) (s : State) : Host.Outcome State Fault Refusal :=
  finish (o.prefixLen + 1) (aluObjB .sub o (fun s => .ok s.al) s)

/-- `SUB obj,off N8` = wp A3 N8 (R323). -/
def execSubObjOff (o : WObj) (n : Byte) (s : State) : Host.Outcome State Fault Refusal :=
  finish (o.prefixLen + 2) (aluObjW .sub o (fun s => loadW s (.off n)) s)

/-- `SUBB obj,off N8` = bp A3 N8 (R327). -/
def execSubbObjOff (o : BObj) (n : Byte) (s : State) : Host.Outcome State Fault Refusal :=
  finish (o.prefixLen + 2) (aluObjB .sub o (fun s => loadB s (.off n)) s)

/-- `SUB obj,#N16` = wp A0 N_L N_H (R324). -/
def execSubObjImm (o : WObj) (n : Word) (s : State) : Host.Outcome State Fault Refusal :=
  finish (o.prefixLen + 3) (aluObjW .sub o (fun _ => .ok n) s)

/-- `SUBB obj,#N8` = bp A0 N8 (R328). -/
def execSubbObjImm (o : BObj) (n : Byte) (s : State) : Host.Outcome State Fault Refusal :=
  finish (o.prefixLen + 2) (aluObjB .sub o (fun _ => .ok n) s)

/-- `SBC A,#N16` = B6 N_L N_H (R329). -/
def execSbcAImm (n : Word) (s : State) : Host.Outcome State Fault Refusal :=
  aluImmW .sbc n s

/-- `SBCB A,#N8` = B6 N8 (R331). -/
def execSbcbAImm (n : Byte) (s : State) : Host.Outcome State Fault Refusal :=
  aluImmB .sbc n s

/-- `SBC A,erN` = 38+N (R329). -/
def execSbcAEr (r : BitVec 2) (s : State) : Host.Outcome State Fault Refusal :=
  aluReg .sbc (r.setWidth 3) s

/-- `SBCB A,rN` = 38+N (R331). -/
def execSbcbAR (r : BitVec 3) (s : State) : Host.Outcome State Fault Refusal :=
  aluReg .sbc r s

/-- `SBC A,off N8` = B7 N8 (R329). -/
def execSbcAOff (n : Byte) (s : State) : Host.Outcome State Fault Refusal :=
  aluOff .sbc n s

/-- `SBCB A,off N8` = B7 N8 (R331). -/
def execSbcbAOff (n : Byte) (s : State) : Host.Outcome State Fault Refusal :=
  aluOff .sbc n s

/-- `SBC A,obj` = wp B2 (R329). -/
def execSbcAObj (o : WObj) (s : State) : Host.Outcome State Fault Refusal :=
  aluAObjW .sbc o s

/-- `SBCB A,obj` = bp B2 (R331). -/
def execSbcbAObj (o : BObj) (s : State) : Host.Outcome State Fault Refusal :=
  aluAObjB .sbc o s

/-- `SBC obj,A` = wp B1 (R330). -/
def execSbcObjA (o : WObj) (s : State) : Host.Outcome State Fault Refusal :=
  finish (o.prefixLen + 1) (aluObjW .sbc o (fun s => .ok s.a) s)

/-- `SBCB obj,A` = bp B1 (R334). -/
def execSbcbObjA (o : BObj) (s : State) : Host.Outcome State Fault Refusal :=
  finish (o.prefixLen + 1) (aluObjB .sbc o (fun s => .ok s.al) s)

/-- `SBC obj,off N8` = wp B3 N8 (R332). -/
def execSbcObjOff (o : WObj) (n : Byte) (s : State) : Host.Outcome State Fault Refusal :=
  finish (o.prefixLen + 2) (aluObjW .sbc o (fun s => loadW s (.off n)) s)

/-- `SBCB obj,off N8` = bp B3 N8 (R335). -/
def execSbcbObjOff (o : BObj) (n : Byte) (s : State) : Host.Outcome State Fault Refusal :=
  finish (o.prefixLen + 2) (aluObjB .sbc o (fun s => loadB s (.off n)) s)

/-- `SBC obj,#N16` = wp B0 N_L N_H (R333). -/
def execSbcObjImm (o : WObj) (n : Word) (s : State) : Host.Outcome State Fault Refusal :=
  finish (o.prefixLen + 3) (aluObjW .sbc o (fun _ => .ok n) s)

/-- `SBCB obj,#N8` = bp B0 N8 (R336). -/
def execSbcbObjImm (o : BObj) (n : Byte) (s : State) : Host.Outcome State Fault Refusal :=
  finish (o.prefixLen + 2) (aluObjB .sbc o (fun _ => .ok n) s)

end Sys2Proof.Machine
end

