-- ==== Sys2Proof/Machine/Bit.lean ====
section
/-! DEFINITION. Bit operations (spec/49_bit.md R390 to R401). -/

namespace Sys2Proof.Machine

/-- The bit number of a register-indirect form, A[2:0] (R390). -/
def State.bitIndex (s : State) : BitVec 3 := s.a.setWidth 3

/-- `ZF <- (old bit = 0)`, then the byte with bit `n` replaced by `b`; on PSWH the bit is written and ZF becomes
unspecified, a free value (R390, R391, R34; log entry 13). -/
def putTestedBit (o : BObj) (n : BitVec 3) (b : Bool) (s : State) : Res State := do
  let l ← byteLoc s o
  let v ← readB s l
  let s1 ← writeB s l (setBit v n.toNat b)
  .ok (bif l.holdsPswh s.cfg then s1.freeFlag .zf else s1.setFlag .zf (!v.getLsbD n.toNat))

/-- `ZF <- (bit = 0)`; nothing else is written (R399). -/
def testBit (o : BObj) (n : BitVec 3) (s : State) : Res State := do
  let v ← loadB s o
  .ok (s.setFlag .zf (!v.getLsbD n.toNat))

/-- `CF <- bit` (R395, R400). -/
def bitToCarry (o : BObj) (n : BitVec 3) (s : State) : Res State := do
  let v ← loadB s o
  .ok (s.setFlag .cf (v.getLsbD n.toNat))

/-- `bit <- CF`, the other bits of the byte written back as read; no flag of its own (R396, R401, R391). -/
def carryToBit (o : BObj) (n : BitVec 3) (s : State) : Res State := do
  let l ← byteLoc s o
  let v ← readB s l
  writeB s l (setBit v n.toNat (s.flag .cf))

/-- `SB obj.bit` = bp 18+n (R393). -/
def execSbBit (o : BObj) (n : BitVec 3) (s : State) : Host.Outcome State Fault Refusal :=
  finish (o.prefixLen + 1) (putTestedBit o n true s)

/-- `RB obj.bit` = bp 08+n (R394). -/
def execRbBit (o : BObj) (n : BitVec 3) (s : State) : Host.Outcome State Fault Refusal :=
  finish (o.prefixLen + 1) (putTestedBit o n false s)

/-- `MB C,obj.bit` = bp 28+n (R395). -/
def execMbCBit (o : BObj) (n : BitVec 3) (s : State) : Host.Outcome State Fault Refusal :=
  finish (o.prefixLen + 1) (bitToCarry o n s)

/-- `MB obj.bit,C` = bp 38+n (R396). -/
def execMbBitC (o : BObj) (n : BitVec 3) (s : State) : Host.Outcome State Fault Refusal :=
  finish (o.prefixLen + 1) (carryToBit o n s)

/-- `SBR obj` = bp 11 (R397). -/
def execSbrObj (o : BObj) (s : State) : Host.Outcome State Fault Refusal :=
  finish (o.prefixLen + 1) (putTestedBit o s.bitIndex true s)

/-- `RBR obj` = bp 12 (R398). -/
def execRbrObj (o : BObj) (s : State) : Host.Outcome State Fault Refusal :=
  finish (o.prefixLen + 1) (putTestedBit o s.bitIndex false s)

/-- `TBR obj` = bp 13 (R399). -/
def execTbrObj (o : BObj) (s : State) : Host.Outcome State Fault Refusal :=
  finish (o.prefixLen + 1) (testBit o s.bitIndex s)

/-- `MBR C,obj` = bp 21 (R400). -/
def execMbrCObj (o : BObj) (s : State) : Host.Outcome State Fault Refusal :=
  finish (o.prefixLen + 1) (bitToCarry o s.bitIndex s)

/-- `MBR obj,C` = bp 20 (R401). -/
def execMbrObjC (o : BObj) (s : State) : Host.Outcome State Fault Refusal :=
  finish (o.prefixLen + 1) (carryToBit o s.bitIndex s)

end Sys2Proof.Machine
end

