-- ==== Sys2Proof/Machine/Compare.lean ====
section
/-! DEFINITION. Compares (spec/47_compare.md R370 to R379). -/

namespace Sys2Proof.Machine

/-- `CMP A,#N16` = C6 N_L N_H (R372). -/
def execCmpAImm (n : Word) (s : State) : Host.Outcome State Fault Refusal :=
  aluImmW .cmp n s

/-- `CMPB A,#N8` = C6 N8 (R376). -/
def execCmpbAImm (n : Byte) (s : State) : Host.Outcome State Fault Refusal :=
  aluImmB .cmp n s

/-- `CMP A,erN` = 48+N (R372). -/
def execCmpAEr (r : BitVec 2) (s : State) : Host.Outcome State Fault Refusal :=
  aluReg .cmp (r.setWidth 3) s

/-- `CMPB A,rN` = 48+N (R376). -/
def execCmpbAR (r : BitVec 3) (s : State) : Host.Outcome State Fault Refusal :=
  aluReg .cmp r s

/-- `CMP A,off N8` = C7 N8 (R372). -/
def execCmpAOff (n : Byte) (s : State) : Host.Outcome State Fault Refusal :=
  aluOff .cmp n s

/-- `CMPB A,off N8` = C7 N8 (R376). -/
def execCmpbAOff (n : Byte) (s : State) : Host.Outcome State Fault Refusal :=
  aluOff .cmp n s

/-- `CMP A,obj` = wp C2 (R372). -/
def execCmpAObj (o : WObj) (s : State) : Host.Outcome State Fault Refusal :=
  aluAObjW .cmp o s

/-- `CMPB A,obj` = bp C2 (R376). -/
def execCmpbAObj (o : BObj) (s : State) : Host.Outcome State Fault Refusal :=
  aluAObjB .cmp o s

/-- `CMP obj,A` = wp C1 (R373). -/
def execCmpObjA (o : WObj) (s : State) : Host.Outcome State Fault Refusal :=
  finish (o.prefixLen + 1) (aluObjW .cmp o (fun s => .ok s.a) s)

/-- `CMPB obj,A` = bp C1 (R377). -/
def execCmpbObjA (o : BObj) (s : State) : Host.Outcome State Fault Refusal :=
  finish (o.prefixLen + 1) (aluObjB .cmp o (fun s => .ok s.al) s)

/-- `CMP obj,off N8` = wp C3 N8 (R374). -/
def execCmpObjOff (o : WObj) (n : Byte) (s : State) : Host.Outcome State Fault Refusal :=
  finish (o.prefixLen + 2) (aluObjW .cmp o (fun s => loadW s (.off n)) s)

/-- `CMPB obj,off N8` = bp C3 N8 (R378). -/
def execCmpbObjOff (o : BObj) (n : Byte) (s : State) : Host.Outcome State Fault Refusal :=
  finish (o.prefixLen + 2) (aluObjB .cmp o (fun s => loadB s (.off n)) s)

/-- `CMP obj,#N16` = wp C0 N_L N_H (R375). -/
def execCmpObjImm (o : WObj) (n : Word) (s : State) : Host.Outcome State Fault Refusal :=
  finish (o.prefixLen + 3) (aluObjW .cmp o (fun _ => .ok n) s)

/-- `CMPB obj,#N8` = bp C0 N8 (R379). -/
def execCmpbObjImm (o : BObj) (n : Byte) (s : State) : Host.Outcome State Fault Refusal :=
  finish (o.prefixLen + 2) (aluObjB .cmp o (fun _ => .ok n) s)

end Sys2Proof.Machine
end

