-- ==== Sys2Proof/Machine/DataTransfer.lean ====
section
/-! DEFINITION. Data transfer (spec/40_data_transfer.md R150 to R214). -/

namespace Sys2Proof.Machine

/-- `A <- v; DD <- 1; ZF <- (v = 0)` (R151). -/
def State.loadA (s : State) (v : Word) : State := ((s.setA v).setDd true).setFlag .zf (v == 0#16)

/-- `AL <- v; DD <- 0; ZF <- (v = 0)`, AH unchanged (R152). -/
def State.loadAl (s : State) (v : Byte) : State := ((s.setAl v).setDd false).setFlag .zf (v == 0#8)

/-- `L A,obj` in `len` bytes (R151). -/
def loadWord (len : Nat) (o : WObj) (s : State) : Host.Outcome State Fault Refusal :=
  finish len <| do
    let v ← loadW s o
    .ok (s.loadA v)

/-- `LB A,obj` in `len` bytes (R152). -/
def loadByte (len : Nat) (o : BObj) (s : State) : Host.Outcome State Fault Refusal :=
  finish len <| do
    let v ← loadB s o
    .ok (s.loadAl v)

/-- The code shared by `ST A,obj` and `STB A,obj`, which DD chooses between (R153, R154). -/
def storeAcc (len : Nat) (ow : WObj) (ob : BObj) (s : State) : Host.Outcome State Fault Refusal :=
  finish len (if s.dd then storeW s ow s.a else storeB s ob s.al)

/-- A word move between objects in `len` bytes: no flag (R160). -/
def moveWord (len : Nat) (src dst : WObj) (s : State) : Host.Outcome State Fault Refusal :=
  finish len <| do
    let v ← loadW s src
    storeW s dst v

/-- A byte move between objects in `len` bytes: no flag of its own (R190). -/
def moveByte (len : Nat) (src dst : BObj) (s : State) : Host.Outcome State Fault Refusal :=
  finish len <| do
    let v ← loadB s src
    storeB s dst v

/-- The code shared by SWAP and SWAPB, which DD chooses between (R210, R211). -/
def swapAcc (s : State) : State :=
  if s.dd then s.setA (mkWord (loByte s.a) (hiByte s.a)) else s.setAl (s.al.rotateLeft 4)

/-- `L A,#N16` = 67 N_L N_H (R151). -/
def execLImm (n : Word) (s : State) : Host.Outcome State Fault Refusal :=
  finish 3 (.ok (s.loadA n))

/-- `L A,erN` = 34+N (R151). -/
def execLEr (r : BitVec 2) (s : State) : Host.Outcome State Fault Refusal :=
  loadWord 1 (.er r) s

/-- `L A,X1` = 40 (R151). -/
def execLX1 (s : State) : Host.Outcome State Fault Refusal :=
  loadWord 1 .x1 s

/-- `L A,X2` = 41 (R151). -/
def execLX2 (s : State) : Host.Outcome State Fault Refusal :=
  loadWord 1 .x2 s

/-- `L A,DP` = 42 (R151). -/
def execLDp (s : State) : Host.Outcome State Fault Refusal :=
  loadWord 1 .dp s

/-- `L A,N16[X1]` = E0 N_L N_H (R151). -/
def execLX1Ind (n : Word) (s : State) : Host.Outcome State Fault Refusal :=
  loadWord 3 (.x1Ind n) s

/-- `L A,N16[X2]` = E1 N_L N_H (R151). -/
def execLX2Ind (n : Word) (s : State) : Host.Outcome State Fault Refusal :=
  loadWord 3 (.x2Ind n) s

/-- `L A,[DP]` = E2 (R151). -/
def execLDpInd (s : State) : Host.Outcome State Fault Refusal :=
  loadWord 1 .dpInd s

/-- `L A,±N8[USP]` = E3 N8 (R151). -/
def execLUspInd (n : Byte) (s : State) : Host.Outcome State Fault Refusal :=
  loadWord 2 (.uspInd n) s

/-- `L A,off N8` = E4 N8 (R151). -/
def execLOff (n : Byte) (s : State) : Host.Outcome State Fault Refusal :=
  loadWord 2 (.off n) s

/-- `L A,N8` = E5 N8 (R151). -/
def execLZp (n : Byte) (s : State) : Host.Outcome State Fault Refusal :=
  loadWord 2 (.zp n) s

/-- `LB A,#N8` = 77 N8 (R152). -/
def execLbImm (n : Byte) (s : State) : Host.Outcome State Fault Refusal :=
  finish 2 (.ok (s.loadAl n))

/-- `LB A,rN` = 78+N (R152). -/
def execLbR (r : BitVec 3) (s : State) : Host.Outcome State Fault Refusal :=
  loadByte 1 (.r r) s

/-- `LB A,N16[X1]` = F0 N_L N_H (R152). -/
def execLbX1Ind (n : Word) (s : State) : Host.Outcome State Fault Refusal :=
  loadByte 3 (.x1Ind n) s

/-- `LB A,N16[X2]` = F1 N_L N_H (R152). -/
def execLbX2Ind (n : Word) (s : State) : Host.Outcome State Fault Refusal :=
  loadByte 3 (.x2Ind n) s

/-- `LB A,[DP]` = F2 (R152). -/
def execLbDpInd (s : State) : Host.Outcome State Fault Refusal :=
  loadByte 1 .dpInd s

/-- `LB A,±N8[USP]` = F3 N8 (R152). -/
def execLbUspInd (n : Byte) (s : State) : Host.Outcome State Fault Refusal :=
  loadByte 2 (.uspInd n) s

/-- `LB A,off N8` = F4 N8 (R152). -/
def execLbOff (n : Byte) (s : State) : Host.Outcome State Fault Refusal :=
  loadByte 2 (.off n) s

/-- `LB A,N8` = F5 N8 (R152). -/
def execLbZp (n : Byte) (s : State) : Host.Outcome State Fault Refusal :=
  loadByte 2 (.zp n) s

/-- `ST A,erN` = 88+N (R153). -/
def execStEr (r : BitVec 2) (s : State) : Host.Outcome State Fault Refusal :=
  storeAcc 1 (.er r) (.r (r.setWidth 3)) s

/-- `STB A,rN` = 88+N (R154). -/
def execStbR (r : BitVec 3) (s : State) : Host.Outcome State Fault Refusal :=
  finish 1 <|
    if s.dd then do
      let e ← wordRegister r
      storeW s (.er e) s.a
    else storeB s (.r r) s.al

/-- `ST A,N16[X1]` = D0 N_L N_H (R153). -/
def execStX1Ind (n : Word) (s : State) : Host.Outcome State Fault Refusal :=
  storeAcc 3 (.x1Ind n) (.x1Ind n) s

/-- `STB A,N16[X1]` = D0 N_L N_H (R154). -/
def execStbX1Ind (n : Word) (s : State) : Host.Outcome State Fault Refusal :=
  storeAcc 3 (.x1Ind n) (.x1Ind n) s

/-- `ST A,N16[X2]` = D1 N_L N_H (R153). -/
def execStX2Ind (n : Word) (s : State) : Host.Outcome State Fault Refusal :=
  storeAcc 3 (.x2Ind n) (.x2Ind n) s

/-- `STB A,N16[X2]` = D1 N_L N_H (R154). -/
def execStbX2Ind (n : Word) (s : State) : Host.Outcome State Fault Refusal :=
  storeAcc 3 (.x2Ind n) (.x2Ind n) s

/-- `ST A,[DP]` = D2 (R153). -/
def execStDpInd (s : State) : Host.Outcome State Fault Refusal :=
  storeAcc 1 .dpInd .dpInd s

/-- `STB A,[DP]` = D2 (R154). -/
def execStbDpInd (s : State) : Host.Outcome State Fault Refusal :=
  storeAcc 1 .dpInd .dpInd s

/-- `ST A,±N8[USP]` = D3 N8 (R153). -/
def execStUspInd (n : Byte) (s : State) : Host.Outcome State Fault Refusal :=
  storeAcc 2 (.uspInd n) (.uspInd n) s

/-- `STB A,±N8[USP]` = D3 N8 (R154). -/
def execStbUspInd (n : Byte) (s : State) : Host.Outcome State Fault Refusal :=
  storeAcc 2 (.uspInd n) (.uspInd n) s

/-- `ST A,off N8` = D4 N8 (R153). -/
def execStOff (n : Byte) (s : State) : Host.Outcome State Fault Refusal :=
  storeAcc 2 (.off n) (.off n) s

/-- `STB A,off N8` = D4 N8 (R154). -/
def execStbOff (n : Byte) (s : State) : Host.Outcome State Fault Refusal :=
  storeAcc 2 (.off n) (.off n) s

/-- `ST A,N8` = D5 N8 (R153). -/
def execStZp (n : Byte) (s : State) : Host.Outcome State Fault Refusal :=
  storeAcc 2 (.zp n) (.zp n) s

/-- `STB A,N8` = D5 N8 (R154). -/
def execStbZp (n : Byte) (s : State) : Host.Outcome State Fault Refusal :=
  storeAcc 2 (.zp n) (.zp n) s

/-- `MOV A,obj` = wp 99 (R161). -/
def execMovAObj (o : WObj) (s : State) : Host.Outcome State Fault Refusal :=
  finish (o.prefixLen + 1) <| do
    let v ← loadW s o
    .ok ((s.setA v).setDd true)

/-- `MOV X1,A` = 50 (R162). -/
def execMovX1A (s : State) : Host.Outcome State Fault Refusal :=
  finish 1 (storeW s .x1 s.a)

/-- `MOV X2,A` = 51 (R162). -/
def execMovX2A (s : State) : Host.Outcome State Fault Refusal :=
  finish 1 (storeW s .x2 s.a)

/-- `MOV DP,A` = 52 (R162). -/
def execMovDpA (s : State) : Host.Outcome State Fault Refusal :=
  finish 1 (storeW s .dp s.a)

/-- `MOV obj,A` = wp 8A (R162). -/
def execMovObjA (o : WObj) (s : State) : Host.Outcome State Fault Refusal :=
  finish (o.prefixLen + 1) (storeW s o s.a)

/-- `MOV X1,#N16` = 60 N_L N_H (R163). -/
def execMovX1Imm (n : Word) (s : State) : Host.Outcome State Fault Refusal :=
  finish 3 (storeW s .x1 n)

/-- `MOV X2,#N16` = 61 N_L N_H (R163). -/
def execMovX2Imm (n : Word) (s : State) : Host.Outcome State Fault Refusal :=
  finish 3 (storeW s .x2 n)

/-- `MOV DP,#N16` = 62 N_L N_H (R163). -/
def execMovDpImm (n : Word) (s : State) : Host.Outcome State Fault Refusal :=
  finish 3 (storeW s .dp n)

/-- `MOV LRB,#N16` = 57 N_L N_H (R163). -/
def execMovLrbImm (n : Word) (s : State) : Host.Outcome State Fault Refusal :=
  finish 3 (storeW s .lrb n)

/-- `MOV obj,#N16` = wp 98 N_L N_H (R163). -/
def execMovObjImm (o : WObj) (n : Word) (s : State) : Host.Outcome State Fault Refusal :=
  finish (o.prefixLen + 3) (storeW s o n)

/-- `MOV X1,obj` = wp 78 (R165). -/
def execMovX1Obj (o : WObj) (s : State) : Host.Outcome State Fault Refusal :=
  moveWord (o.prefixLen + 1) o .x1 s

/-- `MOV X2,obj` = wp 79 (R166). -/
def execMovX2Obj (o : WObj) (s : State) : Host.Outcome State Fault Refusal :=
  moveWord (o.prefixLen + 1) o .x2 s

/-- `MOV DP,obj` = wp 7A (R164). -/
def execMovDpObj (o : WObj) (s : State) : Host.Outcome State Fault Refusal :=
  moveWord (o.prefixLen + 1) o .dp s

/-- `MOV USP,obj` = wp 7B (R167). -/
def execMovUspObj (o : WObj) (s : State) : Host.Outcome State Fault Refusal :=
  moveWord (o.prefixLen + 1) o .usp s

/-- `MOV SSP,obj` = wp 7E (R168). -/
def execMovSspObj (o : WObj) (s : State) : Host.Outcome State Fault Refusal :=
  moveWord (o.prefixLen + 1) o .ssp s

/-- `MOV LRB,obj` = wp 7F (R169). -/
def execMovLrbObj (o : WObj) (s : State) : Host.Outcome State Fault Refusal :=
  moveWord (o.prefixLen + 1) o .lrb s

/-- `MOV erN,obj` = wp 48+N (R170). -/
def execMovErObj (r : BitVec 2) (o : WObj) (s : State) : Host.Outcome State Fault Refusal :=
  moveWord (o.prefixLen + 1) o (.er r) s

/-- `MOV off N8,obj` = wp 7C N8 (R171). -/
def execMovOffObj (n : Byte) (o : WObj) (s : State) : Host.Outcome State Fault Refusal :=
  moveWord (o.prefixLen + 2) o (.off n) s

/-- `MOV PSW,obj` = wp 7D (R183). -/
def execMovPswObj (o : WObj) (s : State) : Host.Outcome State Fault Refusal :=
  finish (o.prefixLen + 1) <| do
    let v ← loadW s o
    .ok (s.setReg .psw v)

/-- `MOVB A,obj` = bp 99 (R191). -/
def execMovbAObj (o : BObj) (s : State) : Host.Outcome State Fault Refusal :=
  finish (o.prefixLen + 1) <| do
    let v ← loadB s o
    .ok ((s.setAl v).setDd false)

/-- `MOVB obj,A` = bp 8A (R192). -/
def execMovbObjA (o : BObj) (s : State) : Host.Outcome State Fault Refusal :=
  finish (o.prefixLen + 1) (storeB s o s.al)

/-- `MOVB rN,#N8` = 98+N N8 (R193). -/
def execMovbRImm (r : BitVec 3) (n : Byte) (s : State) : Host.Outcome State Fault Refusal :=
  finish 2 (storeB s (.r r) n)

/-- `MOVB obj,#N8` = bp 98 N8 (R193). -/
def execMovbObjImm (o : BObj) (n : Byte) (s : State) : Host.Outcome State Fault Refusal :=
  finish (o.prefixLen + 2) (storeB s o n)

/-- `MOVB rN,obj` = bp 48+N (R194). -/
def execMovbRObj (r : BitVec 3) (o : BObj) (s : State) : Host.Outcome State Fault Refusal :=
  moveByte (o.prefixLen + 1) o (.r r) s

/-- `MOVB off N8,obj` = bp 7C N8 (R195). -/
def execMovbOffObj (n : Byte) (o : BObj) (s : State) : Host.Outcome State Fault Refusal :=
  moveByte (o.prefixLen + 2) o (.off n) s

/-- `MOVB PSWH,obj` = bp 89 (R201). -/
def execMovbPswhObj (o : BObj) (s : State) : Host.Outcome State Fault Refusal :=
  moveByte (o.prefixLen + 1) o .pswh s

/-- `MOVB PSWL,obj` = bp 88 (R202). -/
def execMovbPswlObj (o : BObj) (s : State) : Host.Outcome State Fault Refusal :=
  moveByte (o.prefixLen + 1) o .pswl s

/-- `CLR A` = F9 (R205). -/
def execClrA (s : State) : Host.Outcome State Fault Refusal :=
  finish 1 (.ok (s.loadA 0#16))

/-- `CLR obj` = wp 15 (R206). -/
def execClrObj (o : WObj) (s : State) : Host.Outcome State Fault Refusal :=
  finish (o.prefixLen + 1) (storeW s o 0#16)

/-- `CLRB A` = FA (R207). -/
def execClrbA (s : State) : Host.Outcome State Fault Refusal :=
  finish 1 (.ok (s.loadAl 0#8))

/-- `CLRB obj` = bp 15 (R208). -/
def execClrbObj (o : BObj) (s : State) : Host.Outcome State Fault Refusal :=
  finish (o.prefixLen + 1) (storeB s o 0#8)

/-- `SWAP` = 83 (R210). -/
def execSwap (s : State) : Host.Outcome State Fault Refusal :=
  finish 1 (.ok (swapAcc s))

/-- `SWAPB` = 83 (R211). -/
def execSwapb (s : State) : Host.Outcome State Fault Refusal :=
  finish 1 (.ok (swapAcc s))

/-- `XCHG A,obj` = wp 10 (R212). -/
def execXchgAObj (o : WObj) (s : State) : Host.Outcome State Fault Refusal :=
  if s.dd then
    finish (o.prefixLen + 1) <| do
      let l ← wordLoc s o
      let t ← readW s l
      let s1 ← writeW s l s.a
      .ok (s1.setA t)
  else outcome (refuse .ddMismatch)

/-- `XCHGB A,obj` = bp 10 (R213). -/
def execXchgbAObj (o : BObj) (s : State) : Host.Outcome State Fault Refusal :=
  if s.dd then outcome (refuse .ddMismatch)
  else
    finish (o.prefixLen + 1) <| do
      let l ← byteLoc s o
      let t ← readB s l
      let s1 ← writeB s l s.al
      .ok (s1.setAl t)

/-- `XNBL A,off N8` = 84 N8 (R214). -/
def execXnblAOff (n : Byte) (s : State) : Host.Outcome State Fault Refusal :=
  finish 2 <| do
    let v ← loadB s (.off n)
    let s1 ← storeB s (.off n) (v &&& 0xF0#8 ||| s.al &&& 0x0F#8)
    .ok (s1.setA (s1.a &&& 0xFFF0#16 ||| v.setWidth 16 &&& 0x000F#16))

end Sys2Proof.Machine
end

