-- ==== Sys2Proof/Machine/DecimalExtend.lean ====
section
/-! DEFINITION. Decimal adjust and sign extension (spec/48_decimal_extend.md R380 to R384). -/

namespace Sys2Proof.Machine

/-- DAA (R381): AL, CF and HC; ZF and DD are not written. -/
def decimalAdd (s : State) : State :=
  let (v, c, h) := daaOut s.al (s.flag .cf) (s.flag .hc)
  ((s.setAl v).setFlag .cf c).setFlag .hc h

/-- DAS (R382): AL and HC = 0; CF keeps its value and ZF becomes unspecified, a free value (log entry 13). -/
def decimalSub (s : State) : State :=
  ((s.setAl (dasOut s.al (s.flag .cf) (s.flag .hc))).setFlag .hc false).freeFlag .zf

/-- EXTND (R384): AH from bit 7 of AL, `DD <- 1`. -/
def signExtend (s : State) : State := (s.setA (s.al.signExtend 16)).setDd true

/-- `DAA` = 93 (R381). -/
def execDaa (s : State) : Host.Outcome State Fault Refusal :=
  finish 1 (.ok (decimalAdd s))

/-- `DAS` = 94 (R382). -/
def execDas (s : State) : Host.Outcome State Fault Refusal :=
  finish 1 (.ok (decimalSub s))

/-- `EXTND` = F8 (R384). -/
def execExtnd (s : State) : Host.Outcome State Fault Refusal :=
  finish 1 (.ok (signExtend s))

end Sys2Proof.Machine
end

