-- ==== Sys2Proof/Machine/Illegal.lean ====
section
/-! DEFINITION. The rows of spec/opcode_table.json that are no instruction: an illegal first byte, and an operand
prefix followed by a byte that with it is none (spec/30_encoding.md R135, spec/60_exceptions.md R456). -/

namespace Sys2Proof.Machine

/-- `word_prefix__erN` with a suffix that is no instruction (R135). -/
def execWpEr (_r : BitVec 2) (_sfx : Byte) (s : State) : Host.Outcome State Fault Refusal :=
  outcome (illegalCode s)

/-- `word_prefix__X1` with a suffix that is no instruction (R135). -/
def execWpX1 (_sfx : Byte) (s : State) : Host.Outcome State Fault Refusal :=
  outcome (illegalCode s)

/-- `word_prefix__X2` with a suffix that is no instruction (R135). -/
def execWpX2 (_sfx : Byte) (s : State) : Host.Outcome State Fault Refusal :=
  outcome (illegalCode s)

/-- `word_prefix__DP` with a suffix that is no instruction (R135). -/
def execWpDp (_sfx : Byte) (s : State) : Host.Outcome State Fault Refusal :=
  outcome (illegalCode s)

/-- `word_prefix__SSP` with a suffix that is no instruction (R135). -/
def execWpSsp (_sfx : Byte) (s : State) : Host.Outcome State Fault Refusal :=
  outcome (illegalCode s)

/-- `word_prefix__USP` with a suffix that is no instruction (R135). -/
def execWpUsp (_sfx : Byte) (s : State) : Host.Outcome State Fault Refusal :=
  outcome (illegalCode s)

/-- `word_prefix__LRB` with a suffix that is no instruction (R135). -/
def execWpLrb (_sfx : Byte) (s : State) : Host.Outcome State Fault Refusal :=
  outcome (illegalCode s)

/-- `word_prefix__N16_X1` with a suffix that is no instruction (R135). -/
def execWpX1Ind (_n : Word) (_sfx : Byte) (s : State) : Host.Outcome State Fault Refusal :=
  outcome (illegalCode s)

/-- `word_prefix__N16_X2` with a suffix that is no instruction (R135). -/
def execWpX2Ind (_n : Word) (_sfx : Byte) (s : State) : Host.Outcome State Fault Refusal :=
  outcome (illegalCode s)

/-- `word_prefix___DP` with a suffix that is no instruction (R135). -/
def execWpDpInd (_sfx : Byte) (s : State) : Host.Outcome State Fault Refusal :=
  outcome (illegalCode s)

/-- `word_prefix___N8_USP` with a suffix that is no instruction (R135). -/
def execWpUspInd (_n : Byte) (_sfx : Byte) (s : State) : Host.Outcome State Fault Refusal :=
  outcome (illegalCode s)

/-- `word_prefix__off_N8` with a suffix that is no instruction (R135). -/
def execWpOff (_n : Byte) (_sfx : Byte) (s : State) : Host.Outcome State Fault Refusal :=
  outcome (illegalCode s)

/-- `word_prefix__N8` with a suffix that is no instruction (R135). -/
def execWpZp (_n : Byte) (_sfx : Byte) (s : State) : Host.Outcome State Fault Refusal :=
  outcome (illegalCode s)

/-- `byte_prefix__rN` with a suffix that is no instruction (R135). -/
def execBpR (_r : BitVec 3) (_sfx : Byte) (s : State) : Host.Outcome State Fault Refusal :=
  outcome (illegalCode s)

/-- `byte_prefix__PSWH` with a suffix that is no instruction (R135). -/
def execBpPswh (_sfx : Byte) (s : State) : Host.Outcome State Fault Refusal :=
  outcome (illegalCode s)

/-- `byte_prefix__PSWL` with a suffix that is no instruction (R135). -/
def execBpPswl (_sfx : Byte) (s : State) : Host.Outcome State Fault Refusal :=
  outcome (illegalCode s)

/-- `byte_prefix__N16_X1` with a suffix that is no instruction (R135). -/
def execBpX1Ind (_n : Word) (_sfx : Byte) (s : State) : Host.Outcome State Fault Refusal :=
  outcome (illegalCode s)

/-- `byte_prefix__N16_X2` with a suffix that is no instruction (R135). -/
def execBpX2Ind (_n : Word) (_sfx : Byte) (s : State) : Host.Outcome State Fault Refusal :=
  outcome (illegalCode s)

/-- `byte_prefix___DP` with a suffix that is no instruction (R135). -/
def execBpDpInd (_sfx : Byte) (s : State) : Host.Outcome State Fault Refusal :=
  outcome (illegalCode s)

/-- `byte_prefix___N8_USP` with a suffix that is no instruction (R135). -/
def execBpUspInd (_n : Byte) (_sfx : Byte) (s : State) : Host.Outcome State Fault Refusal :=
  outcome (illegalCode s)

/-- `byte_prefix__off_N8` with a suffix that is no instruction (R135). -/
def execBpOff (_n : Byte) (_sfx : Byte) (s : State) : Host.Outcome State Fault Refusal :=
  outcome (illegalCode s)

/-- `byte_prefix__N8` with a suffix that is no instruction (R135). -/
def execBpZp (_n : Byte) (_sfx : Byte) (s : State) : Host.Outcome State Fault Refusal :=
  outcome (illegalCode s)

/-- A first byte no page assigns (R135). -/
def execIllegal (_b : Byte) (s : State) : Host.Outcome State Fault Refusal :=
  outcome (illegalCode s)

end Sys2Proof.Machine
end

