-- ==== Sys2Proof/Machine/IncDec.lean ====
section
/-! DEFINITION. Increments and decrements (spec/43_inc_dec.md R260 to R267). -/

namespace Sys2Proof.Machine

/-- The flags of R260 from the value read and the result; INC and INCB of LRB do not write ZF (R262). -/
def State.stepFlags {w : Nat} (s : State) (op : StepOp) (isLrb : Bool) (v r : BitVec w) : State :=
  (bif isLrb && op == .inc then s else s.setFlag .zf (r == 0)).stepSecond op v

/-- `INC obj` and `DEC obj` in `len` bytes (R261, R262, R265, R266); LRB keeps bits 12..0 of the result, which is 0
when the result is. -/
def stepWord (op : StepOp) (len : Nat) (o : WObj) (s : State) : Host.Outcome State Fault Refusal :=
  finish len <| do
    let l ← wordLoc s o
    let v ← readW s l
    writeFlagsW s l (stepOut op v) fun t => t.stepFlags op (l.isLrb s.cfg) v (stepOut op v)

/-- `INCB obj` and `DECB obj` in `len` bytes (R263, R267); object PSWH is refused (R260). -/
def stepByte (op : StepOp) (len : Nat) (o : BObj) (s : State) : Host.Outcome State Fault Refusal :=
  finish len <| do
    let l ← byteLoc s o
    let v ← readB s l
    writeFlagsB s l (stepOut op v) fun t => t.stepFlags op (l.isLrb s.cfg) v (stepOut op v)

/-- `INC X1` = 70 (R261). -/
def execIncX1 (s : State) : Host.Outcome State Fault Refusal :=
  stepWord .inc 1 .x1 s

/-- `INC X2` = 71 (R261). -/
def execIncX2 (s : State) : Host.Outcome State Fault Refusal :=
  stepWord .inc 1 .x2 s

/-- `INC DP` = 72 (R261). -/
def execIncDp (s : State) : Host.Outcome State Fault Refusal :=
  stepWord .inc 1 .dp s

/-- `INC obj` = wp 16 (R261). -/
def execIncObj (o : WObj) (s : State) : Host.Outcome State Fault Refusal :=
  stepWord .inc (o.prefixLen + 1) o s

/-- `INC LRB` = FD (R262). -/
def execIncLrb (s : State) : Host.Outcome State Fault Refusal :=
  stepWord .inc 1 .lrb s

/-- `INCB rN` = A8+N (R263). -/
def execIncbR (r : BitVec 3) (s : State) : Host.Outcome State Fault Refusal :=
  stepByte .inc 1 (.r r) s

/-- `INCB obj` = bp 16 (R263). -/
def execIncbObj (o : BObj) (s : State) : Host.Outcome State Fault Refusal :=
  stepByte .inc (o.prefixLen + 1) o s

/-- `DEC X1` = 80 (R265). -/
def execDecX1 (s : State) : Host.Outcome State Fault Refusal :=
  stepWord .dec 1 .x1 s

/-- `DEC X2` = 81 (R265). -/
def execDecX2 (s : State) : Host.Outcome State Fault Refusal :=
  stepWord .dec 1 .x2 s

/-- `DEC DP` = 82 (R265). -/
def execDecDp (s : State) : Host.Outcome State Fault Refusal :=
  stepWord .dec 1 .dp s

/-- `DEC obj` = wp 17 (R265). -/
def execDecObj (o : WObj) (s : State) : Host.Outcome State Fault Refusal :=
  stepWord .dec (o.prefixLen + 1) o s

/-- `DEC LRB` = FE (R266). -/
def execDecLrb (s : State) : Host.Outcome State Fault Refusal :=
  stepWord .dec 1 .lrb s

/-- `DECB rN` = B8+N (R267). -/
def execDecbR (r : BitVec 3) (s : State) : Host.Outcome State Fault Refusal :=
  stepByte .dec 1 (.r r) s

/-- `DECB obj` = bp 17 (R267). -/
def execDecbObj (o : BObj) (s : State) : Host.Outcome State Fault Refusal :=
  stepByte .dec (o.prefixLen + 1) o s

end Sys2Proof.Machine
end

