-- ==== Sys2Proof/Machine/JumpCall.lean ====
section
/-! DEFINITION. Jumps, calls and returns (spec/50_jump_call.md R410 to R429). -/

namespace Sys2Proof.Machine

/-- `PC <- target` and nothing else (R410). -/
def jump (s : State) (target : Res Word) : Host.Outcome State Fault Refusal :=
  outcome <| do
    let t ← target
    .ok (s.setPc t)

/-- Where a conditional jump of `n` bytes goes: its target, or the next instruction (R417 to R421). -/
def branchTarget (s : State) (n : Nat) (rel : Byte) (taken : Bool) : Res Word :=
  bif taken then relTarget s n rel else returnAddress s n

/-- JRNZ (R421): the low byte of DP less 1, written back; the jump is made where it is not 0. No flag. -/
def loopJump (rel : Byte) (s : State) : Host.Outcome State Fault Refusal :=
  outcome <| do
    let v ← readByte s (ptrAddr s .dp)
    let t ← branchTarget s 2 rel (v - 1#8 != 0#8)
    let s1 ← writeByte s (ptrAddr s .dp) (v - 1#8)
    .ok (s1.setPc t)

/-- A call of `n` bytes (R425): the return address pushed, `SF <- 0`, `PC <- target`; the target is read before the
push (R424; R425 calls it decision D9; log entry 23). -/
def call (n : Nat) (target : Res Word) (s : State) : Host.Outcome State Fault Refusal :=
  outcome <| do
    let t ← target
    let ra ← returnAddress s n
    let s1 ← push16 ra s
    .ok ((s1.setFlag .sf false).setPc t)

/-- The entry of the VCAL table that code 10+n selects, 0028H + 2n (R426). -/
def vcalEntry (n : BitVec 3) : Word := 0x0028#16 + 2#16 * n.setWidth 16

/-- `SJ address` = CB rel8 (R412). -/
def execSj (rel : Byte) (s : State) : Host.Outcome State Fault Refusal :=
  jump s (relTarget s 2 rel)

/-- `J address` = 03 ad_L ad_H (R413). -/
def execJAddr (ad : Word) (s : State) : Host.Outcome State Fault Refusal :=
  jump s (.ok ad)

/-- `J [obj]` = wp 22 (R414). -/
def execJObj (o : WObj) (s : State) : Host.Outcome State Fault Refusal :=
  jump s (loadW s o)

/-- `JC GT,address` = C8 rel8 (R419). -/
def execJcGt (rel : Byte) (s : State) : Host.Outcome State Fault Refusal :=
  jump s (branchTarget s 2 rel (Cond.gt.holds (s.flag .zf) (s.flag .cf)))

/-- `JC EQ,address` = C9 rel8 (R419). -/
def execJcEq (rel : Byte) (s : State) : Host.Outcome State Fault Refusal :=
  jump s (branchTarget s 2 rel (Cond.eq.holds (s.flag .zf) (s.flag .cf)))

/-- `JC LT,address` = CA rel8 (R419). -/
def execJcLt (rel : Byte) (s : State) : Host.Outcome State Fault Refusal :=
  jump s (branchTarget s 2 rel (Cond.lt.holds (s.flag .zf) (s.flag .cf)))

/-- `JC GE,address` = CD rel8 (R419). -/
def execJcGe (rel : Byte) (s : State) : Host.Outcome State Fault Refusal :=
  jump s (branchTarget s 2 rel (Cond.ge.holds (s.flag .zf) (s.flag .cf)))

/-- `JC NE,address` = CE rel8 (R419). -/
def execJcNe (rel : Byte) (s : State) : Host.Outcome State Fault Refusal :=
  jump s (branchTarget s 2 rel (Cond.ne.holds (s.flag .zf) (s.flag .cf)))

/-- `JC LE,address` = CF rel8 (R419). -/
def execJcLe (rel : Byte) (s : State) : Host.Outcome State Fault Refusal :=
  jump s (branchTarget s 2 rel (Cond.le.holds (s.flag .zf) (s.flag .cf)))

/-- `JBS off N8.bit,address` = E8+n N8 rel8 (R417). -/
def execJbs (bit : BitVec 3) (n : Byte) (rel : Byte) (s : State) : Host.Outcome State Fault Refusal :=
  jump s <| do
    let v ← loadB s (.off n)
    branchTarget s 3 rel (v.getLsbD bit.toNat)

/-- `JBR off N8.bit,address` = D8+n N8 rel8 (R418). -/
def execJbr (bit : BitVec 3) (n : Byte) (rel : Byte) (s : State) : Host.Outcome State Fault Refusal :=
  jump s <| do
    let v ← loadB s (.off n)
    branchTarget s 3 rel (!v.getLsbD bit.toNat)

/-- `JRNZ DP,address` = 30 rel8 (R421). -/
def execJrnz (rel : Byte) (s : State) : Host.Outcome State Fault Refusal :=
  loopJump rel s

/-- `SCAL address` = 31 rel8 (R422). -/
def execScal (rel : Byte) (s : State) : Host.Outcome State Fault Refusal :=
  call 2 (relTarget s 2 rel) s

/-- `CAL address` = 32 ad_L ad_H (R423). -/
def execCalAddr (ad : Word) (s : State) : Host.Outcome State Fault Refusal :=
  call 3 (.ok ad) s

/-- `CAL [obj]` = wp 23 (R424). -/
def execCalObj (o : WObj) (s : State) : Host.Outcome State Fault Refusal :=
  call (o.prefixLen + 1) (loadW s o) s

/-- `VCAL table-address` = 10+n (R426). -/
def execVcal (n : BitVec 3) (s : State) : Host.Outcome State Fault Refusal :=
  call 1 (romWord s (vcalEntry n)) s

/-- `RT` = 01 (R427). -/
def execRt (s : State) : Host.Outcome State Fault Refusal :=
  outcome <| do
    let (v, s1) ← pop16 s
    .ok ((s1.setFlag .sf false).setPc v)

/-- `RTI` = 02 (R428). -/
def execRti (s : State) : Host.Outcome State Fault Refusal :=
  outcome (returnFromInterrupt s)

end Sys2Proof.Machine
end

