-- ==== Sys2Proof/Machine/Logic.lean ====
section
/-! DEFINITION. Logical operations (spec/46_logic.md R340 to R366). -/

namespace Sys2Proof.Machine

/-- `AND A,#N16` = D6 N_L N_H (R343). -/
def execAndAImm (n : Word) (s : State) : Host.Outcome State Fault Refusal :=
  aluImmW .and n s

/-- `ANDB A,#N8` = D6 N8 (R347). -/
def execAndbAImm (n : Byte) (s : State) : Host.Outcome State Fault Refusal :=
  aluImmB .and n s

/-- `AND A,erN` = 58+N (R343). -/
def execAndAEr (r : BitVec 2) (s : State) : Host.Outcome State Fault Refusal :=
  aluReg .and (r.setWidth 3) s

/-- `ANDB A,rN` = 58+N (R347). -/
def execAndbAR (r : BitVec 3) (s : State) : Host.Outcome State Fault Refusal :=
  aluReg .and r s

/-- `AND A,off N8` = D7 N8 (R343). -/
def execAndAOff (n : Byte) (s : State) : Host.Outcome State Fault Refusal :=
  aluOff .and n s

/-- `ANDB A,off N8` = D7 N8 (R347). -/
def execAndbAOff (n : Byte) (s : State) : Host.Outcome State Fault Refusal :=
  aluOff .and n s

/-- `AND A,obj` = wp D2 (R343). -/
def execAndAObj (o : WObj) (s : State) : Host.Outcome State Fault Refusal :=
  aluAObjW .and o s

/-- `ANDB A,obj` = bp D2 (R347). -/
def execAndbAObj (o : BObj) (s : State) : Host.Outcome State Fault Refusal :=
  aluAObjB .and o s

/-- `AND obj,A` = wp D1 (R344). -/
def execAndObjA (o : WObj) (s : State) : Host.Outcome State Fault Refusal :=
  finish (o.prefixLen + 1) (aluObjW .and o (fun s => .ok s.a) s)

/-- `ANDB obj,A` = bp D1 (R348). -/
def execAndbObjA (o : BObj) (s : State) : Host.Outcome State Fault Refusal :=
  finish (o.prefixLen + 1) (aluObjB .and o (fun s => .ok s.al) s)

/-- `AND obj,off N8` = wp D3 N8 (R345). -/
def execAndObjOff (o : WObj) (n : Byte) (s : State) : Host.Outcome State Fault Refusal :=
  finish (o.prefixLen + 2) (aluObjW .and o (fun s => loadW s (.off n)) s)

/-- `ANDB obj,off N8` = bp D3 N8 (R349). -/
def execAndbObjOff (o : BObj) (n : Byte) (s : State) : Host.Outcome State Fault Refusal :=
  finish (o.prefixLen + 2) (aluObjB .and o (fun s => loadB s (.off n)) s)

/-- `AND obj,#N16` = wp D0 N_L N_H (R346). -/
def execAndObjImm (o : WObj) (n : Word) (s : State) : Host.Outcome State Fault Refusal :=
  finish (o.prefixLen + 3) (aluObjW .and o (fun _ => .ok n) s)

/-- `ANDB obj,#N8` = bp D0 N8 (R350). -/
def execAndbObjImm (o : BObj) (n : Byte) (s : State) : Host.Outcome State Fault Refusal :=
  finish (o.prefixLen + 2) (logicImmB .and o n s)

/-- `OR A,#N16` = E6 N_L N_H (R351). -/
def execOrAImm (n : Word) (s : State) : Host.Outcome State Fault Refusal :=
  aluImmW .or n s

/-- `ORB A,#N8` = E6 N8 (R355). -/
def execOrbAImm (n : Byte) (s : State) : Host.Outcome State Fault Refusal :=
  aluImmB .or n s

/-- `OR A,erN` = 68+N (R351). -/
def execOrAEr (r : BitVec 2) (s : State) : Host.Outcome State Fault Refusal :=
  aluReg .or (r.setWidth 3) s

/-- `ORB A,rN` = 68+N (R355). -/
def execOrbAR (r : BitVec 3) (s : State) : Host.Outcome State Fault Refusal :=
  aluReg .or r s

/-- `OR A,off N8` = E7 N8 (R351). -/
def execOrAOff (n : Byte) (s : State) : Host.Outcome State Fault Refusal :=
  aluOff .or n s

/-- `ORB A,off N8` = E7 N8 (R355). -/
def execOrbAOff (n : Byte) (s : State) : Host.Outcome State Fault Refusal :=
  aluOff .or n s

/-- `OR A,obj` = wp E2 (R351). -/
def execOrAObj (o : WObj) (s : State) : Host.Outcome State Fault Refusal :=
  aluAObjW .or o s

/-- `ORB A,obj` = bp E2 (R355). -/
def execOrbAObj (o : BObj) (s : State) : Host.Outcome State Fault Refusal :=
  aluAObjB .or o s

/-- `OR obj,A` = wp E1 (R352). -/
def execOrObjA (o : WObj) (s : State) : Host.Outcome State Fault Refusal :=
  finish (o.prefixLen + 1) (aluObjW .or o (fun s => .ok s.a) s)

/-- `ORB obj,A` = bp E1 (R356). -/
def execOrbObjA (o : BObj) (s : State) : Host.Outcome State Fault Refusal :=
  finish (o.prefixLen + 1) (aluObjB .or o (fun s => .ok s.al) s)

/-- `OR obj,off N8` = wp E3 N8 (R353). -/
def execOrObjOff (o : WObj) (n : Byte) (s : State) : Host.Outcome State Fault Refusal :=
  finish (o.prefixLen + 2) (aluObjW .or o (fun s => loadW s (.off n)) s)

/-- `ORB obj,off N8` = bp E3 N8 (R357). -/
def execOrbObjOff (o : BObj) (n : Byte) (s : State) : Host.Outcome State Fault Refusal :=
  finish (o.prefixLen + 2) (aluObjB .or o (fun s => loadB s (.off n)) s)

/-- `OR obj,#N16` = wp E0 N_L N_H (R354). -/
def execOrObjImm (o : WObj) (n : Word) (s : State) : Host.Outcome State Fault Refusal :=
  finish (o.prefixLen + 3) (aluObjW .or o (fun _ => .ok n) s)

/-- `ORB obj,#N8` = bp E0 N8 (R358). -/
def execOrbObjImm (o : BObj) (n : Byte) (s : State) : Host.Outcome State Fault Refusal :=
  finish (o.prefixLen + 2) (logicImmB .or o n s)

/-- `XOR A,#N16` = F6 N_L N_H (R359). -/
def execXorAImm (n : Word) (s : State) : Host.Outcome State Fault Refusal :=
  aluImmW .xor n s

/-- `XORB A,#N8` = F6 N8 (R363). -/
def execXorbAImm (n : Byte) (s : State) : Host.Outcome State Fault Refusal :=
  aluImmB .xor n s

/-- `XOR A,off N8` = F7 N8 (R359). -/
def execXorAOff (n : Byte) (s : State) : Host.Outcome State Fault Refusal :=
  aluOff .xor n s

/-- `XORB A,off N8` = F7 N8 (R363). -/
def execXorbAOff (n : Byte) (s : State) : Host.Outcome State Fault Refusal :=
  aluOff .xor n s

/-- `XOR A,obj` = wp F2 (R359). -/
def execXorAObj (o : WObj) (s : State) : Host.Outcome State Fault Refusal :=
  aluAObjW .xor o s

/-- `XORB A,obj` = bp F2 (R363). -/
def execXorbAObj (o : BObj) (s : State) : Host.Outcome State Fault Refusal :=
  aluAObjB .xor o s

/-- `XOR obj,A` = wp F1 (R360). -/
def execXorObjA (o : WObj) (s : State) : Host.Outcome State Fault Refusal :=
  finish (o.prefixLen + 1) (aluObjW .xor o (fun s => .ok s.a) s)

/-- `XORB obj,A` = bp F1 (R364). -/
def execXorbObjA (o : BObj) (s : State) : Host.Outcome State Fault Refusal :=
  finish (o.prefixLen + 1) (aluObjB .xor o (fun s => .ok s.al) s)

/-- `XOR obj,off N8` = wp F3 N8 (R361). -/
def execXorObjOff (o : WObj) (n : Byte) (s : State) : Host.Outcome State Fault Refusal :=
  finish (o.prefixLen + 2) (aluObjW .xor o (fun s => loadW s (.off n)) s)

/-- `XORB obj,off N8` = bp F3 N8 (R365). -/
def execXorbObjOff (o : BObj) (n : Byte) (s : State) : Host.Outcome State Fault Refusal :=
  finish (o.prefixLen + 2) (aluObjB .xor o (fun s => loadB s (.off n)) s)

/-- `XOR obj,#N16` = wp F0 N_L N_H (R362). -/
def execXorObjImm (o : WObj) (n : Word) (s : State) : Host.Outcome State Fault Refusal :=
  finish (o.prefixLen + 3) (aluObjW .xor o (fun _ => .ok n) s)

/-- `XORB obj,#N8` = bp F0 N8 (R366). -/
def execXorbObjImm (o : BObj) (n : Byte) (s : State) : Host.Outcome State Fault Refusal :=
  finish (o.prefixLen + 2) (logicImmB .xor o n s)

end Sys2Proof.Machine
end

