-- ==== Sys2Proof/Machine/Other.lean ====
section
/-! DEFINITION. SC, RC, BRK and NOP (spec/51_other.md R440 to R444). -/

namespace Sys2Proof.Machine

/-- `SC` = 85 (R441). -/
def execSc (s : State) : Host.Outcome State Fault Refusal :=
  finish 1 (.ok (s.setFlag .cf true))

/-- `RC` = 95 (R442). -/
def execRc (s : State) : Host.Outcome State Fault Refusal :=
  finish 1 (.ok (s.setFlag .cf false))

/-- `BRK` = FF (R443). -/
def execBrk (s : State) : Host.Outcome State Fault Refusal :=
  outcome (takeReset .brk s)

/-- `NOP` = 00 (R444). -/
def execNop (s : State) : Host.Outcome State Fault Refusal :=
  finish 1 (.ok s)

end Sys2Proof.Machine
end

