-- ==== Sys2Proof/Machine/RomTable.lean ====
section
/-! DEFINITION. ROM table reference (spec/44_rom_table.md R270 to R283). DD is neither read nor written. -/

namespace Sys2Proof.Machine

/-- The address of a based form, `N*16 + rd16(ptr)`, refused above FFFFH (R270). -/
def basedAddr (s : State) (n : Word) (o : WObj) : Res Word := do
  let p ← loadW s o
  if n.toNat + p.toNat ≤ 0xFFFF then .ok (n + p) else refuse .romSumOutOfRange

/-- `A <- RomRead(ra, 2); ZF <- (A = 0)` (R272). -/
def romLoadW (s : State) (ra : Word) : Res State := do
  let v ← romWord s ra
  .ok ((s.setA v).setFlag .zf (v == 0#16))

/-- `AL <- RomRead(ra, 1); ZF <- (AL = 0)` (R275). -/
def romLoadB (s : State) (ra : Word) : Res State := do
  let v ← romByte s ra.toNat
  .ok ((s.setAl v).setFlag .zf (v == 0#8))

/-- `ZF <- (A = m); CF <- (A < m)` for the word m at `ra` (R278, R370). -/
def romCompareW (s : State) (ra : Word) : Res State := do
  let v ← romWord s ra
  .ok (s.aluFlagsW (alu .cmp s.a v false))

/-- `ZF <- (AL = m); CF <- (AL < m)` for the byte m at `ra` (R281, R370). -/
def romCompareB (s : State) (ra : Word) : Res State := do
  let v ← romByte s ra.toNat
  .ok (s.aluFlagsB (alu .cmp s.al v false))

/-- `LC A,N*16` = 90 9C N_L N_H (R272). -/
def execLcDirect (n : Word) (s : State) : Host.Outcome State Fault Refusal :=
  finish 4 (romLoadW s n)

/-- `LC A,[obj]` = wp A8 (R273). -/
def execLcInd (o : WObj) (s : State) : Host.Outcome State Fault Refusal :=
  finish (o.prefixLen + 1) <| do
    let ra ← loadW s o
    romLoadW s ra

/-- `LC A,N*16[obj]` = wp A9 N_L N_H (R274). -/
def execLcBased (o : WObj) (n : Word) (s : State) : Host.Outcome State Fault Refusal :=
  finish (o.prefixLen + 3) <| do
    let ra ← basedAddr s n o
    romLoadW s ra

/-- `LCB A,N*16` = 90 9D N_L N_H (R275). -/
def execLcbDirect (n : Word) (s : State) : Host.Outcome State Fault Refusal :=
  finish 4 (romLoadB s n)

/-- `LCB A,[obj]` = wp AA (R276). -/
def execLcbInd (o : WObj) (s : State) : Host.Outcome State Fault Refusal :=
  finish (o.prefixLen + 1) <| do
    let ra ← loadW s o
    romLoadB s ra

/-- `LCB A,N*16[obj]` = wp AB N_L N_H (R277). -/
def execLcbBased (o : WObj) (n : Word) (s : State) : Host.Outcome State Fault Refusal :=
  finish (o.prefixLen + 3) <| do
    let ra ← basedAddr s n o
    romLoadB s ra

/-- `CMPC A,N*16` = 90 9E N_L N_H (R278). -/
def execCmpcDirect (n : Word) (s : State) : Host.Outcome State Fault Refusal :=
  finish 4 (romCompareW s n)

/-- `CMPC A,[obj]` = wp AC (R279). -/
def execCmpcInd (o : WObj) (s : State) : Host.Outcome State Fault Refusal :=
  finish (o.prefixLen + 1) <| do
    let ra ← loadW s o
    romCompareW s ra

/-- `CMPC A,N*16[obj]` = wp AD N_L N_H (R280). -/
def execCmpcBased (o : WObj) (n : Word) (s : State) : Host.Outcome State Fault Refusal :=
  finish (o.prefixLen + 3) <| do
    let ra ← basedAddr s n o
    romCompareW s ra

/-- `CMPCB A,N*16` = 90 9F N_L N_H (R281). -/
def execCmpcbDirect (n : Word) (s : State) : Host.Outcome State Fault Refusal :=
  finish 4 (romCompareB s n)

/-- `CMPCB A,[obj]` = wp AE (R282). -/
def execCmpcbInd (o : WObj) (s : State) : Host.Outcome State Fault Refusal :=
  finish (o.prefixLen + 1) <| do
    let ra ← loadW s o
    romCompareB s ra

/-- `CMPCB A,N*16[obj]` = wp AF N_L N_H (R283). -/
def execCmpcbBased (o : WObj) (n : Word) (s : State) : Host.Outcome State Fault Refusal :=
  finish (o.prefixLen + 3) <| do
    let ra ← basedAddr s n o
    romCompareB s ra

end Sys2Proof.Machine
end

