-- ==== Sys2Proof/Machine/Shift.lean ====
section
/-! DEFINITION. Rotates and shifts (spec/42_rotate_shift.md R230 to R245). -/

namespace Sys2Proof.Machine

/-- The accumulator forms, whose code DD makes the word or the byte instruction (R230); AH is unchanged in the byte
one. -/
def shiftAcc (op : ShiftOp) (s : State) : State :=
  if s.dd then (s.setA (shiftOut op s.a (s.flag .cf)).1).setFlag .cf (shiftOut op s.a (s.flag .cf)).2
  else (s.setAl (shiftOut op s.al (s.flag .cf)).1).setFlag .cf (shiftOut op s.al (s.flag .cf)).2

/-- The word object forms: the object is written, then CF (R230). -/
def shiftWord (op : ShiftOp) (o : WObj) (s : State) : Host.Outcome State Fault Refusal :=
  finish (o.prefixLen + 1) <| do
    let l ← wordLoc s o
    let v ← readW s l
    let out := shiftOut op v (s.flag .cf)
    writeFlagsW s l out.1 fun t => t.setFlag .cf out.2

/-- The byte object forms: the object is written, then CF; object PSWH is refused (R230, R34). -/
def shiftByte (op : ShiftOp) (o : BObj) (s : State) : Host.Outcome State Fault Refusal :=
  finish (o.prefixLen + 1) <| do
    let l ← byteLoc s o
    let v ← readB s l
    let out := shiftOut op v (s.flag .cf)
    writeFlagsB s l out.1 fun t => t.setFlag .cf out.2

/-- `ROL A` = 33 (R231). -/
def execRolA (s : State) : Host.Outcome State Fault Refusal :=
  finish 1 (.ok (shiftAcc .rol s))

/-- `ROLB A` = 33 (R231). -/
def execRolbA (s : State) : Host.Outcome State Fault Refusal :=
  finish 1 (.ok (shiftAcc .rol s))

/-- `ROL obj` = wp B7 (R232). -/
def execRolObj (o : WObj) (s : State) : Host.Outcome State Fault Refusal :=
  shiftWord .rol o s

/-- `ROLB obj` = bp B7 (R233). -/
def execRolbObj (o : BObj) (s : State) : Host.Outcome State Fault Refusal :=
  shiftByte .rol o s

/-- `ROR A` = 43 (R234). -/
def execRorA (s : State) : Host.Outcome State Fault Refusal :=
  finish 1 (.ok (shiftAcc .ror s))

/-- `RORB A` = 43 (R234). -/
def execRorbA (s : State) : Host.Outcome State Fault Refusal :=
  finish 1 (.ok (shiftAcc .ror s))

/-- `ROR obj` = wp C7 (R235). -/
def execRorObj (o : WObj) (s : State) : Host.Outcome State Fault Refusal :=
  shiftWord .ror o s

/-- `RORB obj` = bp C7 (R236). -/
def execRorbObj (o : BObj) (s : State) : Host.Outcome State Fault Refusal :=
  shiftByte .ror o s

/-- `SLL A` = 53 (R237). -/
def execSllA (s : State) : Host.Outcome State Fault Refusal :=
  finish 1 (.ok (shiftAcc .sll s))

/-- `SLLB A` = 53 (R237). -/
def execSllbA (s : State) : Host.Outcome State Fault Refusal :=
  finish 1 (.ok (shiftAcc .sll s))

/-- `SLL obj` = wp D7 (R238). -/
def execSllObj (o : WObj) (s : State) : Host.Outcome State Fault Refusal :=
  shiftWord .sll o s

/-- `SLLB obj` = bp D7 (R239). -/
def execSllbObj (o : BObj) (s : State) : Host.Outcome State Fault Refusal :=
  shiftByte .sll o s

/-- `SRL A` = 63 (R240). -/
def execSrlA (s : State) : Host.Outcome State Fault Refusal :=
  finish 1 (.ok (shiftAcc .srl s))

/-- `SRLB A` = 63 (R240). -/
def execSrlbA (s : State) : Host.Outcome State Fault Refusal :=
  finish 1 (.ok (shiftAcc .srl s))

/-- `SRL obj` = wp E7 (R241). -/
def execSrlObj (o : WObj) (s : State) : Host.Outcome State Fault Refusal :=
  shiftWord .srl o s

/-- `SRLB obj` = bp E7 (R242). -/
def execSrlbObj (o : BObj) (s : State) : Host.Outcome State Fault Refusal :=
  shiftByte .srl o s

/-- `SRA A` = 73 (R243). -/
def execSraA (s : State) : Host.Outcome State Fault Refusal :=
  finish 1 (.ok (shiftAcc .sra s))

/-- `SRAB A` = 73 (R243). -/
def execSrabA (s : State) : Host.Outcome State Fault Refusal :=
  finish 1 (.ok (shiftAcc .sra s))

/-- `SRA obj` = wp F7 (R244). -/
def execSraObj (o : WObj) (s : State) : Host.Outcome State Fault Refusal :=
  shiftWord .sra o s

/-- `SRAB obj` = bp F7 (R245). -/
def execSrabObj (o : BObj) (s : State) : Host.Outcome State Fault Refusal :=
  shiftByte .sra o s

end Sys2Proof.Machine
end

