-- ==== Sys2Proof/Machine/Stack.lean ====
section
/-! DEFINITION. Stack operations (spec/41_stack.md R220 to R224). -/

namespace Sys2Proof.Machine

/-- `PUSHS A` = 55 (R221). -/
def execPushsA (s : State) : Host.Outcome State Fault Refusal :=
  finish 1 (push16 s.a s)

/-- `PUSHS LRB` = 54 (R222). -/
def execPushsLrb (s : State) : Host.Outcome State Fault Refusal :=
  finish 1 (push16 s.lrbWord s)

/-- `POPS A` = 65 (R223). -/
def execPopsA (s : State) : Host.Outcome State Fault Refusal :=
  finish 1 <| do
    let (v, s1) ← pop16 s
    .ok ((s1.setA v).setDd true)

/-- `POPS LRB` = 64 (R224). -/
def execPopsLrb (s : State) : Host.Outcome State Fault Refusal :=
  finish 1 <| do
    let (v, s1) ← pop16 s
    .ok (s1.setLrb v)

end Sys2Proof.Machine
end

