-- ==== Sys2Proof/Machine/Dispatch.lean ====
section
/-! DEFINITION. The meaning of every instruction: one arm per constructor of Instr, each one call. -/

namespace Sys2Proof.Machine

/-- One instruction, at its own address `s.pc`. -/
def exec (i : Instr) (s : State) : Host.Outcome State Fault Refusal :=
  match i with
  | .lImm n => Sys2Proof.Machine.execLImm n s
  | .lEr r => Sys2Proof.Machine.execLEr r s
  | .lX1Ind n => Sys2Proof.Machine.execLX1Ind n s
  | .lX2Ind n => Sys2Proof.Machine.execLX2Ind n s
  | .lUspInd n => Sys2Proof.Machine.execLUspInd n s
  | .lOff n => Sys2Proof.Machine.execLOff n s
  | .lZp n => Sys2Proof.Machine.execLZp n s
  | .lbImm n => Sys2Proof.Machine.execLbImm n s
  | .lbR r => Sys2Proof.Machine.execLbR r s
  | .lbX1Ind n => Sys2Proof.Machine.execLbX1Ind n s
  | .lbX2Ind n => Sys2Proof.Machine.execLbX2Ind n s
  | .lbUspInd n => Sys2Proof.Machine.execLbUspInd n s
  | .lbOff n => Sys2Proof.Machine.execLbOff n s
  | .lbZp n => Sys2Proof.Machine.execLbZp n s
  | .stEr r => Sys2Proof.Machine.execStEr r s
  | .stbR r => Sys2Proof.Machine.execStbR r s
  | .stX1Ind n => Sys2Proof.Machine.execStX1Ind n s
  | .stbX1Ind n => Sys2Proof.Machine.execStbX1Ind n s
  | .stX2Ind n => Sys2Proof.Machine.execStX2Ind n s
  | .stbX2Ind n => Sys2Proof.Machine.execStbX2Ind n s
  | .stUspInd n => Sys2Proof.Machine.execStUspInd n s
  | .stbUspInd n => Sys2Proof.Machine.execStbUspInd n s
  | .stOff n => Sys2Proof.Machine.execStOff n s
  | .stbOff n => Sys2Proof.Machine.execStbOff n s
  | .stZp n => Sys2Proof.Machine.execStZp n s
  | .stbZp n => Sys2Proof.Machine.execStbZp n s
  | .movAObj o => Sys2Proof.Machine.execMovAObj o s
  | .movObjA o => Sys2Proof.Machine.execMovObjA o s
  | .movX1Imm n => Sys2Proof.Machine.execMovX1Imm n s
  | .movX2Imm n => Sys2Proof.Machine.execMovX2Imm n s
  | .movDpImm n => Sys2Proof.Machine.execMovDpImm n s
  | .movLrbImm n => Sys2Proof.Machine.execMovLrbImm n s
  | .movObjImm o n => Sys2Proof.Machine.execMovObjImm o n s
  | .movX1Obj o => Sys2Proof.Machine.execMovX1Obj o s
  | .movX2Obj o => Sys2Proof.Machine.execMovX2Obj o s
  | .movDpObj o => Sys2Proof.Machine.execMovDpObj o s
  | .movUspObj o => Sys2Proof.Machine.execMovUspObj o s
  | .movSspObj o => Sys2Proof.Machine.execMovSspObj o s
  | .movLrbObj o => Sys2Proof.Machine.execMovLrbObj o s
  | .movErObj r o => Sys2Proof.Machine.execMovErObj r o s
  | .movOffObj n o => Sys2Proof.Machine.execMovOffObj n o s
  | .movPswObj o => Sys2Proof.Machine.execMovPswObj o s
  | .movbAObj o => Sys2Proof.Machine.execMovbAObj o s
  | .movbObjA o => Sys2Proof.Machine.execMovbObjA o s
  | .movbRImm r n => Sys2Proof.Machine.execMovbRImm r n s
  | .movbObjImm o n => Sys2Proof.Machine.execMovbObjImm o n s
  | .movbRObj r o => Sys2Proof.Machine.execMovbRObj r o s
  | .movbOffObj n o => Sys2Proof.Machine.execMovbOffObj n o s
  | .movbPswhObj o => Sys2Proof.Machine.execMovbPswhObj o s
  | .movbPswlObj o => Sys2Proof.Machine.execMovbPswlObj o s
  | .clrObj o => Sys2Proof.Machine.execClrObj o s
  | .clrbObj o => Sys2Proof.Machine.execClrbObj o s
  | .xchgAObj o => Sys2Proof.Machine.execXchgAObj o s
  | .xchgbAObj o => Sys2Proof.Machine.execXchgbAObj o s
  | .xnblAOff n => Sys2Proof.Machine.execXnblAOff n s
  | .rolObj o => Sys2Proof.Machine.execRolObj o s
  | .rolbObj o => Sys2Proof.Machine.execRolbObj o s
  | .rorObj o => Sys2Proof.Machine.execRorObj o s
  | .rorbObj o => Sys2Proof.Machine.execRorbObj o s
  | .sllObj o => Sys2Proof.Machine.execSllObj o s
  | .sllbObj o => Sys2Proof.Machine.execSllbObj o s
  | .srlObj o => Sys2Proof.Machine.execSrlObj o s
  | .srlbObj o => Sys2Proof.Machine.execSrlbObj o s
  | .sraObj o => Sys2Proof.Machine.execSraObj o s
  | .srabObj o => Sys2Proof.Machine.execSrabObj o s
  | .incObj o => Sys2Proof.Machine.execIncObj o s
  | .incbR r => Sys2Proof.Machine.execIncbR r s
  | .incbObj o => Sys2Proof.Machine.execIncbObj o s
  | .decObj o => Sys2Proof.Machine.execDecObj o s
  | .decbR r => Sys2Proof.Machine.execDecbR r s
  | .decbObj o => Sys2Proof.Machine.execDecbObj o s
  | .lcDirect n => Sys2Proof.Machine.execLcDirect n s
  | .lcInd o => Sys2Proof.Machine.execLcInd o s
  | .lcBased o n => Sys2Proof.Machine.execLcBased o n s
  | .lcbDirect n => Sys2Proof.Machine.execLcbDirect n s
  | .lcbInd o => Sys2Proof.Machine.execLcbInd o s
  | .lcbBased o n => Sys2Proof.Machine.execLcbBased o n s
  | .cmpcDirect n => Sys2Proof.Machine.execCmpcDirect n s
  | .cmpcInd o => Sys2Proof.Machine.execCmpcInd o s
  | .cmpcBased o n => Sys2Proof.Machine.execCmpcBased o n s
  | .cmpcbDirect n => Sys2Proof.Machine.execCmpcbDirect n s
  | .cmpcbInd o => Sys2Proof.Machine.execCmpcbInd o s
  | .cmpcbBased o n => Sys2Proof.Machine.execCmpcbBased o n s
  | .addAImm n => Sys2Proof.Machine.execAddAImm n s
  | .addbAImm n => Sys2Proof.Machine.execAddbAImm n s
  | .addAEr r => Sys2Proof.Machine.execAddAEr r s
  | .addbAR r => Sys2Proof.Machine.execAddbAR r s
  | .addAOff n => Sys2Proof.Machine.execAddAOff n s
  | .addbAOff n => Sys2Proof.Machine.execAddbAOff n s
  | .addAObj o => Sys2Proof.Machine.execAddAObj o s
  | .addbAObj o => Sys2Proof.Machine.execAddbAObj o s
  | .addObjA o => Sys2Proof.Machine.execAddObjA o s
  | .addbObjA o => Sys2Proof.Machine.execAddbObjA o s
  | .addObjOff o n => Sys2Proof.Machine.execAddObjOff o n s
  | .addbObjOff o n => Sys2Proof.Machine.execAddbObjOff o n s
  | .addObjImm o n => Sys2Proof.Machine.execAddObjImm o n s
  | .addbObjImm o n => Sys2Proof.Machine.execAddbObjImm o n s
  | .adcAImm n => Sys2Proof.Machine.execAdcAImm n s
  | .adcbAImm n => Sys2Proof.Machine.execAdcbAImm n s
  | .adcAEr r => Sys2Proof.Machine.execAdcAEr r s
  | .adcbAR r => Sys2Proof.Machine.execAdcbAR r s
  | .adcAOff n => Sys2Proof.Machine.execAdcAOff n s
  | .adcbAOff n => Sys2Proof.Machine.execAdcbAOff n s
  | .adcAObj o => Sys2Proof.Machine.execAdcAObj o s
  | .adcbAObj o => Sys2Proof.Machine.execAdcbAObj o s
  | .adcObjA o => Sys2Proof.Machine.execAdcObjA o s
  | .adcbObjA o => Sys2Proof.Machine.execAdcbObjA o s
  | .adcObjOff o n => Sys2Proof.Machine.execAdcObjOff o n s
  | .adcbObjOff o n => Sys2Proof.Machine.execAdcbObjOff o n s
  | .adcObjImm o n => Sys2Proof.Machine.execAdcObjImm o n s
  | .adcbObjImm o n => Sys2Proof.Machine.execAdcbObjImm o n s
  | .subAImm n => Sys2Proof.Machine.execSubAImm n s
  | .subbAImm n => Sys2Proof.Machine.execSubbAImm n s
  | .subAEr r => Sys2Proof.Machine.execSubAEr r s
  | .subbAR r => Sys2Proof.Machine.execSubbAR r s
  | .subAOff n => Sys2Proof.Machine.execSubAOff n s
  | .subbAOff n => Sys2Proof.Machine.execSubbAOff n s
  | .subAObj o => Sys2Proof.Machine.execSubAObj o s
  | .subbAObj o => Sys2Proof.Machine.execSubbAObj o s
  | .subObjA o => Sys2Proof.Machine.execSubObjA o s
  | .subbObjA o => Sys2Proof.Machine.execSubbObjA o s
  | .subObjOff o n => Sys2Proof.Machine.execSubObjOff o n s
  | .subbObjOff o n => Sys2Proof.Machine.execSubbObjOff o n s
  | .subObjImm o n => Sys2Proof.Machine.execSubObjImm o n s
  | .subbObjImm o n => Sys2Proof.Machine.execSubbObjImm o n s
  | .sbcAImm n => Sys2Proof.Machine.execSbcAImm n s
  | .sbcbAImm n => Sys2Proof.Machine.execSbcbAImm n s
  | .sbcAEr r => Sys2Proof.Machine.execSbcAEr r s
  | .sbcbAR r => Sys2Proof.Machine.execSbcbAR r s
  | .sbcAOff n => Sys2Proof.Machine.execSbcAOff n s
  | .sbcbAOff n => Sys2Proof.Machine.execSbcbAOff n s
  | .sbcAObj o => Sys2Proof.Machine.execSbcAObj o s
  | .sbcbAObj o => Sys2Proof.Machine.execSbcbAObj o s
  | .sbcObjA o => Sys2Proof.Machine.execSbcObjA o s
  | .sbcbObjA o => Sys2Proof.Machine.execSbcbObjA o s
  | .sbcObjOff o n => Sys2Proof.Machine.execSbcObjOff o n s
  | .sbcbObjOff o n => Sys2Proof.Machine.execSbcbObjOff o n s
  | .sbcObjImm o n => Sys2Proof.Machine.execSbcObjImm o n s
  | .sbcbObjImm o n => Sys2Proof.Machine.execSbcbObjImm o n s
  | .cmpAImm n => Sys2Proof.Machine.execCmpAImm n s
  | .cmpbAImm n => Sys2Proof.Machine.execCmpbAImm n s
  | .cmpAEr r => Sys2Proof.Machine.execCmpAEr r s
  | .cmpbAR r => Sys2Proof.Machine.execCmpbAR r s
  | .cmpAOff n => Sys2Proof.Machine.execCmpAOff n s
  | .cmpbAOff n => Sys2Proof.Machine.execCmpbAOff n s
  | .cmpAObj o => Sys2Proof.Machine.execCmpAObj o s
  | .cmpbAObj o => Sys2Proof.Machine.execCmpbAObj o s
  | .cmpObjA o => Sys2Proof.Machine.execCmpObjA o s
  | .cmpbObjA o => Sys2Proof.Machine.execCmpbObjA o s
  | .cmpObjOff o n => Sys2Proof.Machine.execCmpObjOff o n s
  | .cmpbObjOff o n => Sys2Proof.Machine.execCmpbObjOff o n s
  | .cmpObjImm o n => Sys2Proof.Machine.execCmpObjImm o n s
  | .cmpbObjImm o n => Sys2Proof.Machine.execCmpbObjImm o n s
  | .andAImm n => Sys2Proof.Machine.execAndAImm n s
  | .andbAImm n => Sys2Proof.Machine.execAndbAImm n s
  | .andAEr r => Sys2Proof.Machine.execAndAEr r s
  | .andbAR r => Sys2Proof.Machine.execAndbAR r s
  | .andAOff n => Sys2Proof.Machine.execAndAOff n s
  | .andbAOff n => Sys2Proof.Machine.execAndbAOff n s
  | .andAObj o => Sys2Proof.Machine.execAndAObj o s
  | .andbAObj o => Sys2Proof.Machine.execAndbAObj o s
  | .andObjA o => Sys2Proof.Machine.execAndObjA o s
  | .andbObjA o => Sys2Proof.Machine.execAndbObjA o s
  | .andObjOff o n => Sys2Proof.Machine.execAndObjOff o n s
  | .andbObjOff o n => Sys2Proof.Machine.execAndbObjOff o n s
  | .andObjImm o n => Sys2Proof.Machine.execAndObjImm o n s
  | .andbObjImm o n => Sys2Proof.Machine.execAndbObjImm o n s
  | .orAImm n => Sys2Proof.Machine.execOrAImm n s
  | .orbAImm n => Sys2Proof.Machine.execOrbAImm n s
  | .orAEr r => Sys2Proof.Machine.execOrAEr r s
  | .orbAR r => Sys2Proof.Machine.execOrbAR r s
  | .orAOff n => Sys2Proof.Machine.execOrAOff n s
  | .orbAOff n => Sys2Proof.Machine.execOrbAOff n s
  | .orAObj o => Sys2Proof.Machine.execOrAObj o s
  | .orbAObj o => Sys2Proof.Machine.execOrbAObj o s
  | .orObjA o => Sys2Proof.Machine.execOrObjA o s
  | .orbObjA o => Sys2Proof.Machine.execOrbObjA o s
  | .orObjOff o n => Sys2Proof.Machine.execOrObjOff o n s
  | .orbObjOff o n => Sys2Proof.Machine.execOrbObjOff o n s
  | .orObjImm o n => Sys2Proof.Machine.execOrObjImm o n s
  | .orbObjImm o n => Sys2Proof.Machine.execOrbObjImm o n s
  | .xorAImm n => Sys2Proof.Machine.execXorAImm n s
  | .xorbAImm n => Sys2Proof.Machine.execXorbAImm n s
  | .xorAOff n => Sys2Proof.Machine.execXorAOff n s
  | .xorbAOff n => Sys2Proof.Machine.execXorbAOff n s
  | .xorAObj o => Sys2Proof.Machine.execXorAObj o s
  | .xorbAObj o => Sys2Proof.Machine.execXorbAObj o s
  | .xorObjA o => Sys2Proof.Machine.execXorObjA o s
  | .xorbObjA o => Sys2Proof.Machine.execXorbObjA o s
  | .xorObjOff o n => Sys2Proof.Machine.execXorObjOff o n s
  | .xorbObjOff o n => Sys2Proof.Machine.execXorbObjOff o n s
  | .xorObjImm o n => Sys2Proof.Machine.execXorObjImm o n s
  | .xorbObjImm o n => Sys2Proof.Machine.execXorbObjImm o n s
  | .sbBit o n => Sys2Proof.Machine.execSbBit o n s
  | .rbBit o n => Sys2Proof.Machine.execRbBit o n s
  | .mbCBit o n => Sys2Proof.Machine.execMbCBit o n s
  | .mbBitC o n => Sys2Proof.Machine.execMbBitC o n s
  | .sbrObj o => Sys2Proof.Machine.execSbrObj o s
  | .rbrObj o => Sys2Proof.Machine.execRbrObj o s
  | .tbrObj o => Sys2Proof.Machine.execTbrObj o s
  | .mbrCObj o => Sys2Proof.Machine.execMbrCObj o s
  | .mbrObjC o => Sys2Proof.Machine.execMbrObjC o s
  | .sj rel => Sys2Proof.Machine.execSj rel s
  | .jAddr ad => Sys2Proof.Machine.execJAddr ad s
  | .jObj o => Sys2Proof.Machine.execJObj o s
  | .jcGt rel => Sys2Proof.Machine.execJcGt rel s
  | .jcEq rel => Sys2Proof.Machine.execJcEq rel s
  | .jcLt rel => Sys2Proof.Machine.execJcLt rel s
  | .jcGe rel => Sys2Proof.Machine.execJcGe rel s
  | .jcNe rel => Sys2Proof.Machine.execJcNe rel s
  | .jcLe rel => Sys2Proof.Machine.execJcLe rel s
  | .jbs bit n rel => Sys2Proof.Machine.execJbs bit n rel s
  | .jbr bit n rel => Sys2Proof.Machine.execJbr bit n rel s
  | .jrnz rel => Sys2Proof.Machine.execJrnz rel s
  | .scal rel => Sys2Proof.Machine.execScal rel s
  | .calAddr ad => Sys2Proof.Machine.execCalAddr ad s
  | .calObj o => Sys2Proof.Machine.execCalObj o s
  | .vcal n => Sys2Proof.Machine.execVcal n s
  | .wpEr r sfx => Sys2Proof.Machine.execWpEr r sfx s
  | .wpX1 sfx => Sys2Proof.Machine.execWpX1 sfx s
  | .wpX2 sfx => Sys2Proof.Machine.execWpX2 sfx s
  | .wpDp sfx => Sys2Proof.Machine.execWpDp sfx s
  | .wpSsp sfx => Sys2Proof.Machine.execWpSsp sfx s
  | .wpUsp sfx => Sys2Proof.Machine.execWpUsp sfx s
  | .wpLrb sfx => Sys2Proof.Machine.execWpLrb sfx s
  | .wpX1Ind n sfx => Sys2Proof.Machine.execWpX1Ind n sfx s
  | .wpX2Ind n sfx => Sys2Proof.Machine.execWpX2Ind n sfx s
  | .wpDpInd sfx => Sys2Proof.Machine.execWpDpInd sfx s
  | .wpUspInd n sfx => Sys2Proof.Machine.execWpUspInd n sfx s
  | .wpOff n sfx => Sys2Proof.Machine.execWpOff n sfx s
  | .wpZp n sfx => Sys2Proof.Machine.execWpZp n sfx s
  | .bpR r sfx => Sys2Proof.Machine.execBpR r sfx s
  | .bpPswh sfx => Sys2Proof.Machine.execBpPswh sfx s
  | .bpPswl sfx => Sys2Proof.Machine.execBpPswl sfx s
  | .bpX1Ind n sfx => Sys2Proof.Machine.execBpX1Ind n sfx s
  | .bpX2Ind n sfx => Sys2Proof.Machine.execBpX2Ind n sfx s
  | .bpDpInd sfx => Sys2Proof.Machine.execBpDpInd sfx s
  | .bpUspInd n sfx => Sys2Proof.Machine.execBpUspInd n sfx s
  | .bpOff n sfx => Sys2Proof.Machine.execBpOff n sfx s
  | .bpZp n sfx => Sys2Proof.Machine.execBpZp n sfx s
  | .illegal b => Sys2Proof.Machine.execIllegal b s
  | .lX1 => Sys2Proof.Machine.execLX1 s
  | .lX2 => Sys2Proof.Machine.execLX2 s
  | .lDp => Sys2Proof.Machine.execLDp s
  | .lDpInd => Sys2Proof.Machine.execLDpInd s
  | .lbDpInd => Sys2Proof.Machine.execLbDpInd s
  | .stDpInd => Sys2Proof.Machine.execStDpInd s
  | .stbDpInd => Sys2Proof.Machine.execStbDpInd s
  | .movX1A => Sys2Proof.Machine.execMovX1A s
  | .movX2A => Sys2Proof.Machine.execMovX2A s
  | .movDpA => Sys2Proof.Machine.execMovDpA s
  | .clrA => Sys2Proof.Machine.execClrA s
  | .clrbA => Sys2Proof.Machine.execClrbA s
  | .swap => Sys2Proof.Machine.execSwap s
  | .swapb => Sys2Proof.Machine.execSwapb s
  | .pushsA => Sys2Proof.Machine.execPushsA s
  | .pushsLrb => Sys2Proof.Machine.execPushsLrb s
  | .popsA => Sys2Proof.Machine.execPopsA s
  | .popsLrb => Sys2Proof.Machine.execPopsLrb s
  | .rolA => Sys2Proof.Machine.execRolA s
  | .rolbA => Sys2Proof.Machine.execRolbA s
  | .rorA => Sys2Proof.Machine.execRorA s
  | .rorbA => Sys2Proof.Machine.execRorbA s
  | .sllA => Sys2Proof.Machine.execSllA s
  | .sllbA => Sys2Proof.Machine.execSllbA s
  | .srlA => Sys2Proof.Machine.execSrlA s
  | .srlbA => Sys2Proof.Machine.execSrlbA s
  | .sraA => Sys2Proof.Machine.execSraA s
  | .srabA => Sys2Proof.Machine.execSrabA s
  | .incX1 => Sys2Proof.Machine.execIncX1 s
  | .incX2 => Sys2Proof.Machine.execIncX2 s
  | .incDp => Sys2Proof.Machine.execIncDp s
  | .incLrb => Sys2Proof.Machine.execIncLrb s
  | .decX1 => Sys2Proof.Machine.execDecX1 s
  | .decX2 => Sys2Proof.Machine.execDecX2 s
  | .decDp => Sys2Proof.Machine.execDecDp s
  | .decLrb => Sys2Proof.Machine.execDecLrb s
  | .mul => Sys2Proof.Machine.execMul s
  | .mulb => Sys2Proof.Machine.execMulb s
  | .div => Sys2Proof.Machine.execDiv s
  | .divb => Sys2Proof.Machine.execDivb s
  | .daa => Sys2Proof.Machine.execDaa s
  | .das => Sys2Proof.Machine.execDas s
  | .extnd => Sys2Proof.Machine.execExtnd s
  | .rt => Sys2Proof.Machine.execRt s
  | .rti => Sys2Proof.Machine.execRti s
  | .sc => Sys2Proof.Machine.execSc s
  | .rc => Sys2Proof.Machine.execRc s
  | .brk => Sys2Proof.Machine.execBrk s
  | .nop => Sys2Proof.Machine.execNop s

end Sys2Proof.Machine
end

