-- ==== Sys2Proof/Machine/Fetch.lean ====
section
/-! DEFINITION. Instruction fetch (spec/20_memory.md R72, spec/30_encoding.md R107), the run of one instruction, the
events of the environment (spec/60_exceptions.md R460, R461), and the launch of a run (spec/70_reset_and_hazards.md
R490). -/

namespace Sys2Proof.Machine

/-- The bytes of program memory from address `a` up, at most `n` of them, as far as they are present (R72). -/
def fetchBytes (rom : Memory) (a : Nat) : Nat → List Byte
  | 0 => []
  | n + 1 =>
    if a < 65536 then
      match rom.cell a with
      | some b => b :: fetchBytes rom (a + 1) n
      | none => []
    else []

/-- The instruction at PC: the bytes there, decoded under DD (R107, R108). No instruction is longer than 6 (R100). -/
def fetch (s : State) : Decoded := decode s.cfg.opcodes s.dd (fetchBytes s.rom s.pc.toNat 6)

/-- The stop of a step whose instruction runs past the bytes that are there: beyond FFFFH it is refused (spec/10_state.md
R24), else program memory is absent (R72). -/
def missingByte (s : State) : Res State :=
  if s.pc.toNat + (fetchBytes s.rom s.pc.toNat 6).length ≤ 0xFFFF then
    noMemory (.absentProgram (s.pc.toNat + (fetchBytes s.rom s.pc.toNat 6).length))
  else refuse .pcPastEnd

/-- Fetch, decode and run the instruction at PC (spec/00_scope.md R15). -/
def runInstruction (s : State) : Host.Outcome State Fault Refusal :=
  match fetch s with
  | .instr i _ => exec i s
  | .noWordRegister => outcome (refuse .noWordRegister)
  | .incomplete => outcome (missingByte s)

/-- What the environment chooses at the coming boundary: an event it would deliver, or none (spec/60_exceptions.md
R460); a free choice once the schedule has run out (log entry 20). -/
def Environment.choice (env : Environment) : Option Event :=
  match env.schedule with
  | [] => Config.freeEvent env.passed
  | .instruction :: _ => none
  | .event e :: _ => some e

/-- The environment once the coming boundary has passed: at most one event at each (R461). -/
def Environment.next (env : Environment) : Environment := ⟨env.schedule.tail, env.passed + 1⟩

/-- The event delivered at this boundary: the environment's choice where it is a member of `INT_LIVE`; an event outside
`INT_LIVE` never happens (R460). -/
def State.due (s : State) : Option Event := s.cfg.intLive.find? fun e => s.env.choice == some e

/-- `s` with this boundary passed. -/
def State.passBoundary (s : State) : State := { s with env := s.env.next }

/-- The state a run starts from (R490, R474): State.reset with the parameters, the program and the environment the host
supplies, and PC the word of the vector at 0000H (log entry 8). Events of `INT_LIVE` may come from the first boundary
on (R491, R500). -/
def State.launch (c : Config) (rom : Memory) (env : Environment) : Res State := do
  let v ← romWord { State.reset with rom := rom } ResetCause.resetPin.vector
  .ok { State.reset with cfg := c, rom := rom, pc := v, env := env }

/-- `s` with the bytes `bs` in program memory from PC up. -/
def State.placeAtPc (s : State) (bs : List Byte) : State := { s with rom := s.rom.load s.pc.toNat bs }

end Sys2Proof.Machine
end

