-- ==== Sys2Proof/Machine/Step.lean ====
section
/-! DEFINITION. One step of the machine: the event that is due at this boundary (spec/60_exceptions.md R460, R461), or
the next instruction. -/

namespace Sys2Proof.Machine

/-- One step: it passes the boundary, then takes the event that is due there or, where none is, runs an instruction. -/
def step (s : State) : Host.Outcome State Fault Refusal :=
  match s.due with
  | some e => outcome (takeEvent e s.passBoundary)
  | none => runInstruction s.passBoundary

/-- `s` with the instruction of an opcode-table row, its bits numbered as the table's, in program memory at PC, and no
event at the coming boundary (log entry 8). -/
def State.withFetchWord (s : State) (nbits w : Nat) : State :=
  { s.placeAtPc (littleEndian (w % 2 ^ nbits) 6) with env := { s.env with schedule := [.instruction] } }

end Sys2Proof.Machine
end

