-- ==== Sys2Proof/Safety.lean ====
section
/-! DEFINITION. What the spec allows the parameters to be, the invariant of the states, and the end of a run. -/

namespace Sys2Proof.Machine

/-- The admitted values of the flag positions (spec/10_state.md R28): CF, ZF and HC in PSWH but not at DD, SF in no
bit of DD or SCB, no bit twice. -/
def flagBitsLegal (c : Config) : Bool :=
  [c.cfBit, c.zfBit, c.hcBit].all (fun b => decide (8 ≤ b.val) && b.val != 12) &&
  (decide (3 ≤ c.sfBit.val) && c.sfBit.val != 12) &&
  decide [c.cfBit, c.zfBit, c.hcBit, c.sfBit].Nodup

/-- The admitted register addresses (R36): even, in 0000H..007FH, no two registers at one. -/
def registerAddrsLegal (c : Config) : Bool :=
  let set := [c.addrSsp, c.addrLrb, c.addrPsw, c.addrAcc].filterMap id
  set.all (fun a => decide (a.toNat < 0x80) && a.toNat % 2 == 0) && decide set.Nodup

/-- Parameters the spec admits (spec/00_scope.md R9). -/
def legalConfig (c : Config) : Prop :=
  flagBitsLegal c = true ∧ registerAddrsLegal c = true ∧ c.opcodes.legal = true

/-- The invariant every step keeps: both memories are in canonical form, and data memory lists bytes only where
`DATA_MAP` has RAM (spec/20_memory.md R60, R61, R71). -/
def Inv (s : State) : Prop :=
  Memory.wf s.ram ∧ Memory.sorted s.rom ∧ ∀ c ∈ s.ram, isRam s.cfg c.1 = true

/-- A run is over at an instruction boundary with PC = END_PC (spec/70_reset_and_hazards.md R505). The chip does not
stop there and neither does step (log entry 36). -/
def State.finished (s : State) : Prop := s.cfg.endPc = some s.pc

/-- The premise a claim that a run ends must carry where `INT_LIVE` is not empty (spec/70_reset_and_hazards.md R507):
from some boundary on the environment chooses no live event. It says nothing of the schedule, which is finite. -/
def finitelyManyEvents (c : Config) : Prop :=
  ∃ n, ∀ k, n ≤ k → ∀ e ∈ c.intLive, Config.freeEvent k ≠ some e

/-- A safe run of `n` steps from a state: none of them stops. -/
def safeFor (n : Nat) (s : State) : Prop :=
  match n with
  | 0 => True
  | n + 1 => s.finished ∨ ∃ t, step s = .next t ∧ safeFor n t

/-- Which bits of which CPU registers an instruction may change. -/
abbrev Touch := CpuReg → Nat → Bool

/-- No bit. -/
def Touch.nothing : Touch := fun _ _ => false

/-- Every bit of one register. -/
def Touch.all (r : CpuReg) : Touch := fun q _ => q == r

/-- The high or the low byte of one register. -/
def Touch.half (r : CpuReg) (high : Bool) : Touch := fun q k => q == r && (decide (8 ≤ k) == high)

/-- The bits of PSW at some of the flags. -/
def Touch.flags (c : Config) (fs : List Flag) : Touch := fun q k => q == .psw && fs.any fun f => k == f.bit c

/-- The flags an ALU operation writes (spec/45_arithmetic.md R293, spec/46_logic.md R340, spec/47_compare.md R370). -/
def AluOp.flags : AluOp → List Flag
  | .add | .adc | .sub | .sbc => [.zf, .cf, .hc]
  | .cmp => [.zf, .cf]
  | .and | .or | .xor => [.zf]

/-- DD, PSW bit 12. -/
def Touch.dd : Touch := fun q k => q == .psw && k == 12

/-- The bits of either set. -/
def Touch.or (f g : Touch) : Touch := fun q k => f q k || g q k

/-- Whether a data address holds a byte an instruction can read and write: RAM or a CPU register. -/
def accessible (c : Config) (ea : Word) : Bool :=
  match place c ea with
  | .ram | .reg _ _ => true
  | .sfr | .absent => false

/-- Whether a word location can be read and written. -/
def WLoc.accessible (c : Config) : WLoc → Bool
  | .ssp | .lrb => true
  | .mem ea => Machine.accessible c (evenAddr ea) && Machine.accessible c (evenAddr ea + 1)

/-- Whether a byte location can be read and written. -/
def BLoc.accessible (c : Config) : BLoc → Bool
  | .pswh | .pswl => true
  | .mem ea => Machine.accessible c ea

/-- The data addresses a word store at a location writes: the two bytes at `ea & FFFEH` (spec/20_memory.md R66). -/
def WLoc.bytes : WLoc → List Word
  | .ssp | .lrb => []
  | .mem ea => [evenAddr ea, evenAddr ea + 1]

/-- The data address a byte store at a location writes. -/
def BLoc.bytes : BLoc → List Word
  | .pswh | .pswl => []
  | .mem ea => [ea]

/-- The CPU register a word store at a location writes, by name or by its data address (spec/10_state.md R36). -/
def WLoc.touches (c : Config) : WLoc → Touch
  | .ssp => Touch.all .ssp
  | .lrb => Touch.all .lrb
  | .mem ea =>
    match regAt c ea with
    | some r => Touch.all r
    | none => Touch.nothing

/-- The byte of a CPU register a byte store at a location writes, by name or by its data address (R36). -/
def BLoc.touches (c : Config) : BLoc → Touch
  | .pswh => Touch.half .psw true
  | .pswl => Touch.half .psw false
  | .mem ea =>
    match regAt c ea with
    | some r => Touch.half r (ea.getLsbD 0)
    | none => Touch.nothing

/-- What a word location can hold: LRB has bits 12..0 only (R35). -/
def WLoc.mask (c : Config) (l : WLoc) : Word := bif l.isLrb c then 0x1FFF#16 else 0xFFFF#16

/-- What a byte location can hold: the high byte of LRB has bits 4..0 only (R35). -/
def BLoc.mask (c : Config) : BLoc → Byte
  | .mem ea => bif regAt c ea == some .lrb && ea.getLsbD 0 then 0x1F#8 else 0xFF#8
  | _ => 0xFF#8

/-- What an instruction leaves unchanged, `s` before it and `t` after: the parameters, program memory and the
environment; every bit of A, PSW, SSP and LRB outside `may`; and every byte of data memory outside `stored`. A data address
that shows a CPU register (R36) reads as that register does, which the register clause covers. PC may change. -/
structure Changes (s t : State) (may : Touch) (stored : List Word) : Prop where
  cfg : t.cfg = s.cfg
  rom : t.rom = s.rom
  env : t.env = s.env
  regs : ∀ r k, may r k = false → (t.reg r).getLsbD k = (s.reg r).getLsbD k
  bytes : ∀ ea, ea ∉ stored → regAt s.cfg ea = none → readByte t ea = readByte s ea

end Sys2Proof.Machine
end

