-- ==== Sys2Proof/Certificates/Slice0/Obligations.lean ====
section
/-! DEFINITION. The statements for the provers. In a frame, `Changes s t may stored` says that `t` differs from `s` only
in PC, in the bits of A, PSW, SSP and LRB that `may` has, and in the data bytes at `stored`; a location `l` stores to
`l.bytes` and, where a register lies there, `l.touches` its bits (Sys2Proof/Safety.lean). -/

open Sys2Proof Sys2Proof.Machine

/-- State right after reset: DD = 0 and LRB bits 15..13 = 0 by the spec, the other values by the model (log entries 2,
8 and 20) (R46, R35, R491). -/
def Obligations.ResetState : Prop :=
  State.reset.dd = false ∧ State.reset.lrbWord &&& 0xE000#16 = 0#16 ∧ State.reset.a = 0#16 ∧ State.reset.psw = 0#16 ∧
    State.reset.lrbWord = 0#16 ∧ State.reset.ssp = 0xFFFF#16 ∧ State.reset.pc = 0#16 ∧ State.reset.ram = [] ∧
    State.reset.rom = [] ∧ State.reset.env = ⟨[], 0⟩

/-- The invariant holds right after reset, and the candidate parameters are ones the spec admits (the candidates are
PRESUMED, log entries 2 to 4) (R9, R60, R61). -/
def Obligations.InvariantAtReset : Prop :=
  Inv State.reset ∧ legalConfig State.reset.cfg

/-- A run starts at the word of vector entry 0000H with DD = 0; a live event may be due before its first instruction
(R490, R491, R64, R460, R500). The environment as data is log entry 20. -/
def Obligations.LaunchLoadsVector : Prop :=
  (∀ (c : Config) (rom : Memory) (env : Environment) (lo hi : Byte), rom.cell 0 = some lo → rom.cell 1 = some hi →
      ∃ t, State.launch c rom env = .ok t ∧ t.pc = mkWord hi lo ∧ t.dd = false ∧ t.rom = rom ∧ t.cfg = c ∧
        t.env = env ∧
        (∀ e, e ∈ c.intLive → ((∃ rest, env.schedule = .event e :: rest) ∨
          (env.schedule = [] ∧ Config.freeEvent env.passed = some e)) → t.due = some e)) ∧
    (∀ (c : Config) (rom : Memory) (env : Environment), rom.cell 0 = none ∨ rom.cell 1 = none →
      ∀ t, State.launch c rom env ≠ .ok t)

/-- Every step keeps the invariant of the two memories (R60, R61, R71, R85). -/
def Obligations.StepKeepsInvariant : Prop :=
  ∀ s t : State, Machine.Inv s → step s = .next t → Machine.Inv t

/-- No step writes program memory or a parameter; a step passes one boundary and takes at most one event there, a live
one chosen (R60, R85, R460, R461). That the schedule loses its first element and one more boundary has passed is the
model's own data, DESIGN CHOICE, log entry 20; that a step takes at most one event is the spec's own choice, R461,
decision D29. -/
def Obligations.StepKeepsParameters : Prop :=
  ∀ s t : State, step s = .next t →
    t.cfg = s.cfg ∧ t.rom = s.rom ∧ t.env.schedule = s.env.schedule.tail ∧ t.env.passed = s.env.passed + 1 ∧
    ((∃ e ∈ s.cfg.intLive, s.env.choice = some e ∧ takeEvent e { s with env := s.env.next } = .ok t) ∨
      ((∀ e ∈ s.cfg.intLive, s.env.choice ≠ some e) ∧
        ∃ i, exec i { s with env := s.env.next } = .next t))

/-- A step at which no event is due runs the instruction its bytes at PC decode to (R15, R107, R72, R460). -/
def Obligations.StepRunsDecoded : Prop :=
  ∀ (s : State) (i : Instr) (n : Nat),
    decode s.cfg.opcodes s.dd (fetchBytes s.rom s.pc.toNat 6) = .instr i n →
    (s.cfg.intLive = [] ∨ (∃ rest, s.env.schedule = .instruction :: rest) ∨
      (∃ e rest, s.env.schedule = .event e :: rest ∧ e ∉ s.cfg.intLive) ∨
      (s.env.schedule = [] ∧ ∀ e ∈ s.cfg.intLive, Config.freeEvent s.env.passed ≠ some e)) →
    step s = exec i { s with env := s.env.next }

/-- Where program memory holds the code of a well-formed instruction at PC, a step runs that instruction (R107, R108,
R72, R15). -/
def Obligations.StepRunsEncoded : Prop :=
  ∀ (s : State) (i : Instr) (bs : List Byte), s.cfg.opcodes.legal = true → i.wellFormed s.cfg.opcodes = true →
    (∀ b, i.ddSelect = some b → s.dd = b) → encode s.cfg.opcodes i = some bs →
    fetchBytes s.rom s.pc.toNat bs.length = bs → s.due = none →
    step s = exec i { s with env := s.env.next }

/-- Decoding the code of any well-formed instruction gives that instruction, whatever bytes follow it (R102, R103,
R107, R108, R124, R125, R126, R127). -/
def Obligations.DecodeEncode : Prop :=
  ∀ (ops : Opcodes) (dd : Bool) (i : Instr) (bs rest : List Byte), ops.legal = true → i.wellFormed ops = true →
    (∀ b, i.ddSelect = some b → dd = b) → encode ops i = some bs →
    decode ops dd (bs ++ rest) = .instr i bs.length

/-- What the decoder reads is a well-formed instruction of 1 to 6 bytes whose code is exactly the bytes read (R100,
R107, R108, R128, R135). -/
def Obligations.DecodedIsEncoding : Prop :=
  ∀ (ops : Opcodes) (dd : Bool) (bs : List Byte) (i : Instr) (n : Nat), ops.legal = true →
    decode ops dd bs = .instr i n →
    i.wellFormed ops = true ∧ (∀ b, i.ddSelect = some b → dd = b) ∧ encode ops i = some (bs.take n) ∧
    1 ≤ n ∧ n ≤ 6 ∧ n ≤ bs.length

/-- Codes the spec prints decode to the instructions it prints them for (R151, R163, R300, R305, R350, R394, R412). -/
def Obligations.SpecWordsDecode : Prop :=
  decode Opcodes.candidate false [0x67#8, 0x00#8, 0x00#8] = .instr (.lImm 0#16) 3 ∧
    decode Opcodes.candidate false [0x44#8, 0x98#8, 0x34#8, 0x12#8] = .instr (.movObjImm (.er 0) 0x1234#16) 4 ∧
    decode Opcodes.candidate false [0x90#8, 0x35#8] = .instr .mul 2 ∧
    decode Opcodes.candidate true [0x86#8, 0x01#8, 0x00#8] = .instr (.addAImm 1#16) 3 ∧
    decode Opcodes.candidate false [0xA2#8, 0xD0#8, 0xEF#8] = .instr (.andbObjImm .pswh 0xEF#8) 3 ∧
    decode Opcodes.candidate false [0xC5#8, 0xD0#8, 0x0F#8] = .instr (.rbBit (.zp 0xD0#8) 7) 3 ∧
    decode Opcodes.candidate false [0xCB#8, 0xFE#8] = .instr (.sj 0xFE#8) 2

/-- A word access to data memory is an access to the two bytes at the even address, low byte first (R64, R66, R70). -/
def Obligations.WordBoundary : Prop :=
  ∀ (s : State) (ea v : Word),
    readWord s ea = readWord s (ea &&& 0xFFFE#16) ∧ writeWord s ea v = writeWord s (ea &&& 0xFFFE#16) v ∧
    (∀ lo hi, readWord s ea = .ok (mkWord hi lo) ↔
      readByte s (ea &&& 0xFFFE#16) = .ok lo ∧ readByte s ((ea &&& 0xFFFE#16) + 1) = .ok hi) ∧
    (∀ t, writeWord s ea v = .ok t → readWord t ea = .ok (v &&& (WLoc.mem ea).mask s.cfg) ∧
      Changes s t ((WLoc.mem ea).touches s.cfg) [ea &&& 0xFFFE#16, (ea &&& 0xFFFE#16) + 1])

/-- SSP, LRB, PSW and A are read and written at their data addresses, low byte at the even one (R36, R35, R64, R71).
-/
def Obligations.RegistersAtAddresses : Prop :=
  ∀ (s : State) (r : CpuReg) (a v : Word), legalConfig s.cfg →
    (r, a) ∈ ([(.ssp, s.cfg.addrSsp), (.lrb, s.cfg.addrLrb), (.psw, s.cfg.addrPsw),
      (.acc, s.cfg.addrAcc)] : List (CpuReg × Option Word)).filterMap (fun x => x.2.map fun a => (x.1, a)) →
    readWord s a = .ok (s.reg r) ∧ readWord s (a + 1) = .ok (s.reg r) ∧
    readByte s a = .ok ((s.reg r).extractLsb' 0 8) ∧ readByte s (a + 1) = .ok ((s.reg r).extractLsb' 8 8) ∧
    ∃ t, writeWord s a v = .ok t ∧ t.reg r = (if r = .lrb then v &&& 0x1FFF#16 else v) ∧
      Changes s t (Touch.all r) [a, a + 1]

/-- Peripheral registers are refused and absent memory faults, by name (R71, R72). That the access stops is a choice,
since R71 and R72 say a model refuses, decisions D10 and D1; that it stops as a FAULT where memory is absent is the
model's own, log entries 18 and 19. -/
def Obligations.MissingMemory : Prop :=
  ∀ (s : State) (ea : Word) (v : Byte),
    (place s.cfg ea = .sfr → readByte s ea = .error (.refusal (.peripheralRegister ea)) ∧
      writeByte s ea v = .error (.refusal (.peripheralRegister ea))) ∧
    (place s.cfg ea = .absent → readByte s ea = .error (.fault (.absentData ea)) ∧
      writeByte s ea v = .error (.fault (.absentData ea))) ∧
    (∀ a, s.rom.cell a = none → romByte s a = .error (.fault (.absentProgram a)))

/-- Where the byte local registers are (R40, R41). -/
def Obligations.RegisterAddresses : Prop :=
  ∀ (s : State) (r : BitVec 3),
    (lrBase s).toNat = (s.lrb.extractLsb' 5 8).toNat * 256 + (s.lrb.extractLsb' 0 5).toNat * 8 ∧
    lrBase s = s.lrbWord <<< 3 ∧
    byteLoc s (.r r) = .ok (.mem (rAddr s r)) ∧ (rAddr s r).toNat = (lrBase s).toNat + r.toNat

/-- Where the word local registers, the pointing registers and the page-addressed and pointer-indirect operands are
(R38, R42, R40, R116, R117, R118, R119, R120). That a USP sum outside 0000H..FFFFH is refused, displacementOutOfRange,
is a choice: decision D1, log entry 14. -/
def Obligations.OperandAddresses : Prop :=
  (∀ (s : State) (e : BitVec 2) (n : Byte),
    wordLoc s (.er e) = .ok (.mem (erAddr s e)) ∧ (erAddr s e).toNat = (lrBase s).toNat + 2 * e.toNat ∧
    (lrBase s).toNat % 8 = 0 ∧
    (∀ o off, (o, off) ∈ [(WObj.x1, 0x80), (.x2, 0x82), (.dp, 0x84), (.usp, 0x86)] →
      ∃ a : Word, wordLoc s o = .ok (.mem a) ∧ a.toNat = off + 8 * (s.psw.extractLsb' 0 3).toNat) ∧
    (pageAddr s n).toNat = (s.lrb.extractLsb' 5 8).toNat * 256 + n.toNat ∧ (zeroPageAddr n).toNat = n.toNat ∧
    wordLoc s (.off n) = .ok (.mem (pageAddr s n)) ∧ byteLoc s (.off n) = .ok (.mem (pageAddr s n)) ∧
    wordLoc s (.zp n) = .ok (.mem (zeroPageAddr n)) ∧ byteLoc s (.zp n) = .ok (.mem (zeroPageAddr n))) ∧
    (∀ (s : State) (p n ea : Word) (d : Byte),
    (readWord s (ptrAddr s .dp) = .ok p → wordLoc s .dpInd = .ok (.mem p) ∧ byteLoc s .dpInd = .ok (.mem p)) ∧
    (readWord s (ptrAddr s .x1) = .ok p → wordLoc s (.x1Ind n) = .ok (.mem (n + p)) ∧
      byteLoc s (.x1Ind n) = .ok (.mem (n + p))) ∧
    (readWord s (ptrAddr s .x2) = .ok p → wordLoc s (.x2Ind n) = .ok (.mem (n + p)) ∧
      byteLoc s (.x2Ind n) = .ok (.mem (n + p))) ∧
    (readWord s (ptrAddr s .usp) = .ok p → (ea.toNat : Int) = p.toNat + d.toInt →
      wordLoc s (.uspInd d) = .ok (.mem ea) ∧ byteLoc s (.uspInd d) = .ok (.mem ea)) ∧
    (readWord s (ptrAddr s .usp) = .ok p → ((p.toNat : Int) + d.toInt < 0 ∨ 0xFFFF < (p.toNat : Int) + d.toInt) →
      wordLoc s (.uspInd d) = .error (.refusal .displacementOutOfRange) ∧
      byteLoc s (.uspInd d) = .error (.refusal .displacementOutOfRange)))

/-- L A,obj and CLR A: A takes the value, DD becomes 1, ZF tells zero, nothing else changes (R151, R205, R23, R29). -/
def Obligations.LoadWord : Prop :=
  ∀ (s : State) (n v : Word) (d : Byte) (e : BitVec 2) (i : Instr) (len : Nat), legalConfig s.cfg →
    s.pc.toNat + len ≤ 0xFFFF →
    ((∃ o, (i, o, len) ∈
      [(Instr.lEr e, WObj.er e, 1), (.lX1, .x1, 1), (.lX2, .x2, 1), (.lDp, .dp, 1),
      (.lX1Ind n, .x1Ind n, 3), (.lX2Ind n, .x2Ind n, 3), (.lDpInd, .dpInd, 1), (.lUspInd d, .uspInd d, 2),
      (.lOff d, .off d, 2), (.lZp d, .zp d, 2)] ∧
      loadW s o = .ok v) ∨ (i, v, len) ∈ [(Instr.lImm n, n, 3), (.clrA, 0#16, 1)]) →
    ∃ t, exec i s = .next t ∧ t.a = v ∧ t.dd = true ∧ t.flag .zf = (v == 0#16) ∧
      t.pc = s.pc + BitVec.ofNat 16 len ∧
      Changes s t ((Touch.all .acc).or (Touch.dd.or (Touch.flags s.cfg [.zf]))) []

/-- LB A,obj and CLRB A: AL takes the value, AH stays, DD becomes 0, ZF tells zero, nothing else changes (R152, R207,
R21, R23). -/
def Obligations.LoadByte : Prop :=
  ∀ (s : State) (n : Word) (d v : Byte) (r : BitVec 3) (i : Instr) (len : Nat), legalConfig s.cfg →
    s.pc.toNat + len ≤ 0xFFFF →
    ((∃ o, (i, o, len) ∈
      [(Instr.lbR r, BObj.r r, 1), (.lbX1Ind n, .x1Ind n, 3), (.lbX2Ind n, .x2Ind n, 3),
      (.lbDpInd, .dpInd, 1), (.lbUspInd d, .uspInd d, 2), (.lbOff d, .off d, 2), (.lbZp d, .zp d, 2)] ∧
      loadB s o = .ok v) ∨ (i, v, len) ∈ [(Instr.lbImm d, d, 2), (.clrbA, 0#8, 1)]) →
    ∃ t, exec i s = .next t ∧ t.al = v ∧ t.dd = false ∧ t.flag .zf = (v == 0#8) ∧
      t.pc = s.pc + BitVec.ofNat 16 len ∧
      Changes s t ((Touch.half .acc false).or (Touch.dd.or (Touch.flags s.cfg [.zf]))) []

/-- MOV A,obj and MOVB A,obj load A or AL and write DD and no other flag; MOV PSW,obj loads all of PSW; nothing else
changes (R161, R191, C39, R183, R26, R27). -/
def Obligations.MoveToAccumulatorOrPsw : Prop :=
  ∀ (s : State),
    (∀ (o : WObj) (v : Word), loadW s o = .ok v → s.pc.toNat + (o.prefixLen + 1) ≤ 0xFFFF →
      ∃ t, exec (.movAObj o) s = .next t ∧ t.a = v ∧ t.dd = true ∧
        t.pc = s.pc + BitVec.ofNat 16 (o.prefixLen + 1) ∧ Changes s t ((Touch.all .acc).or Touch.dd) []) ∧
    (∀ (o : BObj) (b : Byte), loadB s o = .ok b → s.pc.toNat + (o.prefixLen + 1) ≤ 0xFFFF →
      ∃ t, exec (.movbAObj o) s = .next t ∧ t.al = b ∧ t.dd = false ∧
        t.pc = s.pc + BitVec.ofNat 16 (o.prefixLen + 1) ∧ Changes s t ((Touch.half .acc false).or Touch.dd) []) ∧
    (∀ (v : Word) (o : WObj), s.pc.toNat + (o.prefixLen + 1) ≤ 0xFFFF → loadW s o = .ok v →
    ∃ t, exec (.movPswObj o) s = .next t ∧ t.psw = v ∧ t.dd = v.getLsbD 12 ∧ t.scb = v.extractLsb' 0 3 ∧
      t.pc = s.pc + BitVec.ofNat 16 (o.prefixLen + 1) ∧ Changes s t (Touch.all .psw) [])

/-- The code of ST A,obj and STB A,obj stores A with DD = 1, AL with DD = 0 and changes nothing else (either
constructor under either DD, log entry 15) (R153, R154, R108, R66). -/
def Obligations.StoreAccumulator : Prop :=
  (∀ (s : State) (n : Word) (d : Byte) (e : BitVec 2) (i : Instr) (o : WObj) (len : Nat) (l : WLoc),
    (i, o, len) ∈
      [(Instr.stEr e, WObj.er e, 1), (.stbR (e.setWidth 3), .er e, 1), (.stX1Ind n, .x1Ind n, 3),
      (.stbX1Ind n, .x1Ind n, 3), (.stX2Ind n, .x2Ind n, 3), (.stbX2Ind n, .x2Ind n, 3),
      (.stDpInd, .dpInd, 1), (.stbDpInd, .dpInd, 1), (.stUspInd d, .uspInd d, 2),
      (.stbUspInd d, .uspInd d, 2), (.stOff d, .off d, 2), (.stbOff d, .off d, 2), (.stZp d, .zp d, 2),
      (.stbZp d, .zp d, 2)] →
    s.dd = true → s.pc.toNat + len ≤ 0xFFFF → wordLoc s o = .ok l → l.accessible s.cfg = true →
    ∃ t, exec i s = .next t ∧ readW t l = .ok (s.a &&& l.mask s.cfg) ∧ t.pc = s.pc + BitVec.ofNat 16 len ∧
      Changes s t (l.touches s.cfg) l.bytes) ∧
    (∀ (s : State) (n : Word) (d : Byte) (r : BitVec 3) (e : BitVec 2) (i : Instr) (o : BObj) (len : Nat) (l : BLoc),
    (i, o, len) ∈
      [(Instr.stbR r, BObj.r r, 1), (.stEr e, .r (e.setWidth 3), 1), (.stX1Ind n, .x1Ind n, 3),
      (.stbX1Ind n, .x1Ind n, 3), (.stX2Ind n, .x2Ind n, 3), (.stbX2Ind n, .x2Ind n, 3),
      (.stDpInd, .dpInd, 1), (.stbDpInd, .dpInd, 1), (.stUspInd d, .uspInd d, 2),
      (.stbUspInd d, .uspInd d, 2), (.stOff d, .off d, 2), (.stbOff d, .off d, 2), (.stZp d, .zp d, 2),
      (.stbZp d, .zp d, 2)] →
    s.dd = false → s.pc.toNat + len ≤ 0xFFFF → byteLoc s o = .ok l → l.accessible s.cfg = true →
    ∃ t, exec i s = .next t ∧ readB t l = .ok (s.al &&& l.mask s.cfg) ∧ t.pc = s.pc + BitVec.ofNat 16 len ∧
      Changes s t (l.touches s.cfg) l.bytes)

/-- MOV obj,A, MOV obj,#N16 and CLR obj write the word object and no flag (R162, R163, R206, R35, R66). -/
def Obligations.StoreWordObject : Prop :=
  ∀ (s : State) (n v : Word) (i : Instr) (o dst : WObj) (len : Nat) (l : WLoc),
    (i, dst, v, len) ∈
      [(Instr.movX1A, WObj.x1, s.a, 1), (.movX2A, .x2, s.a, 1), (.movDpA, .dp, s.a, 1),
      (.movObjA o, o, s.a, o.prefixLen + 1), (.movX1Imm n, .x1, n, 3), (.movX2Imm n, .x2, n, 3),
      (.movDpImm n, .dp, n, 3), (.movLrbImm n, .lrb, n, 3), (.movObjImm o n, o, n, o.prefixLen + 3),
      (.clrObj o, o, 0#16, o.prefixLen + 1)] →
    s.pc.toNat + len ≤ 0xFFFF → wordLoc s dst = .ok l → l.accessible s.cfg = true →
    ∃ t, exec i s = .next t ∧ readW t l = .ok (v &&& l.mask s.cfg) ∧ t.pc = s.pc + BitVec.ofNat 16 len ∧
      Changes s t (l.touches s.cfg) l.bytes

/-- MOVB obj,A, MOVB obj,#N8 and CLRB obj write the byte object and no flag of their own (R192, R193, R208, R201,
R202). -/
def Obligations.StoreByteObject : Prop :=
  ∀ (s : State) (n v : Byte) (r : BitVec 3) (i : Instr) (o dst : BObj) (len : Nat) (l : BLoc),
    (i, dst, v, len) ∈
      [(Instr.movbObjA o, o, s.al, o.prefixLen + 1), (.movbRImm r n, .r r, n, 2),
      (.movbObjImm o n, o, n, o.prefixLen + 2), (.clrbObj o, o, 0#8, o.prefixLen + 1)] →
    s.pc.toNat + len ≤ 0xFFFF → byteLoc s dst = .ok l → l.accessible s.cfg = true →
    ∃ t, exec i s = .next t ∧ readB t l = .ok (v &&& l.mask s.cfg) ∧ t.pc = s.pc + BitVec.ofNat 16 len ∧
      Changes s t (l.touches s.cfg) l.bytes

/-- MOV to X1, X2, DP, USP, SSP, LRB, erN or off N8 from any word object copies the word and writes no flag (R164,
R165, R166, R167, R168, R169, R170, R171). -/
def Obligations.MoveWord : Prop :=
  ∀ (s : State) (v : Word) (d : Byte) (e : BitVec 2) (i : Instr) (o dst : WObj) (len : Nat) (l : WLoc),
    (i, dst, len) ∈
      [(Instr.movX1Obj o, WObj.x1, o.prefixLen + 1), (.movX2Obj o, .x2, o.prefixLen + 1),
      (.movDpObj o, .dp, o.prefixLen + 1), (.movUspObj o, .usp, o.prefixLen + 1),
      (.movSspObj o, .ssp, o.prefixLen + 1), (.movLrbObj o, .lrb, o.prefixLen + 1),
      (.movErObj e o, .er e, o.prefixLen + 1), (.movOffObj d o, .off d, o.prefixLen + 2)] →
    s.pc.toNat + len ≤ 0xFFFF → loadW s o = .ok v → wordLoc s dst = .ok l → l.accessible s.cfg = true →
    ∃ t, exec i s = .next t ∧ readW t l = .ok (v &&& l.mask s.cfg) ∧ t.pc = s.pc + BitVec.ofNat 16 len ∧
      Changes s t (l.touches s.cfg) l.bytes

/-- MOVB to rN, off N8, PSWH or PSWL from any byte object copies the byte and changes nothing else (R194, R195, R201,
R202, R26). -/
def Obligations.MoveByte : Prop :=
  ∀ (s : State) (v d : Byte) (r : BitVec 3) (i : Instr) (o dst : BObj) (len : Nat) (l : BLoc),
    (i, dst, len) ∈
      [(Instr.movbRObj r o, BObj.r r, o.prefixLen + 1), (.movbOffObj d o, .off d, o.prefixLen + 2),
      (.movbPswhObj o, .pswh, o.prefixLen + 1), (.movbPswlObj o, .pswl, o.prefixLen + 1)] →
    s.pc.toNat + len ≤ 0xFFFF → loadB s o = .ok v → byteLoc s dst = .ok l → l.accessible s.cfg = true →
    ∃ t, exec i s = .next t ∧ readB t l = .ok (v &&& l.mask s.cfg) ∧ t.pc = s.pc + BitVec.ofNat 16 len ∧
      Changes s t (l.touches s.cfg) l.bytes ∧ (l = .pswh → t.dd = v.getLsbD 4) ∧ (l = .pswl → t.scb = v.extractLsb' 0 3)

/-- SWAP exchanges the bytes of A with DD = 1 and SWAPB the nibbles of AL with DD = 0, one code for both (R210, R211).
-/
def Obligations.Swap : Prop :=
  ∀ (s : State) (i : Instr), i ∈ [Instr.swap, .swapb] → s.pc.toNat + 1 ≤ 0xFFFF →
    encode s.cfg.opcodes i = some [0x83#8] ∧
    (s.dd = true → exec i s = .next
      { s with a := mkWord (s.a.extractLsb' 0 8) (s.a.extractLsb' 8 8), pc := s.pc + 1#16 }) ∧
    (s.dd = false → exec i s = .next
      { s with a := mkWord (s.a.extractLsb' 8 8) (s.a.extractLsb' 0 4 ++ s.a.extractLsb' 4 4 : Byte),
               pc := s.pc + 1#16 })

/-- XCHG and XCHGB swap A or AL with the object, XNBL the low nibbles of A and of the byte; no flag is written (R212,
R213, R35, R214, R116). -/
def Obligations.Exchange : Prop :=
  ∀ (s : State),
    (∀ (o : WObj) (l : WLoc) (v : Word), s.dd = true → s.pc.toNat + (o.prefixLen + 1) ≤ 0xFFFF →
      wordLoc s o = .ok l → readW s l = .ok v →
      ∃ t, exec (.xchgAObj o) s = .next t ∧ t.a = v ∧ readW t l = .ok (s.a &&& l.mask s.cfg) ∧
        t.pc = s.pc + BitVec.ofNat 16 (o.prefixLen + 1) ∧
        Changes s t ((Touch.all .acc).or (l.touches s.cfg)) l.bytes) ∧
    (∀ (o : BObj) (l : BLoc) (b : Byte), s.dd = false → s.pc.toNat + (o.prefixLen + 1) ≤ 0xFFFF →
      byteLoc s o = .ok l → readB s l = .ok b →
      ∃ t, exec (.xchgbAObj o) s = .next t ∧ t.al = b ∧ readB t l = .ok (s.al &&& l.mask s.cfg) ∧
        t.pc = s.pc + BitVec.ofNat 16 (o.prefixLen + 1) ∧
        Changes s t ((Touch.half .acc false).or (l.touches s.cfg)) l.bytes) ∧
    (∀ (d v : Byte), s.pc.toNat + 2 ≤ 0xFFFF → readByte s (pageAddr s d) = .ok v →
    ∃ t, exec (.xnblAOff d) s = .next t ∧ (∀ k, k < 4 → t.a.getLsbD k = v.getLsbD k) ∧
      readByte t (pageAddr s d) = .ok ((v.extractLsb' 4 4 ++ s.a.extractLsb' 0 4 : Byte) &&&
        (BLoc.mem (pageAddr s d)).mask s.cfg) ∧ t.pc = s.pc + 2#16 ∧
      Changes s t (Touch.or (fun q k => q == .acc && decide (k < 4)) ((BLoc.mem (pageAddr s d)).touches s.cfg))
        [pageAddr s d])

/-- PUSHS A and LRB store the word at SSP and take 2 from SSP; POPS A and LRB add 2 and load the word there; POPS A
sets DD (R75, R66, R221, R222, R223, R224, R35). That SSP is the old SSP less 2 where the pushed word lies over
ADDR_SSP, and that a word popped from there is the old SSP, is the model's choice: log entry 22. -/
def Obligations.PushAndPop : Prop :=
  (∀ (s : State) (i : Instr) (v : Word), (i, v) ∈ [(Instr.pushsA, s.a), (.pushsLrb, s.lrbWord)] →
    s.pc.toNat + 1 ≤ 0xFFFF → 2 ≤ s.ssp.toNat → (WLoc.mem s.ssp).accessible s.cfg = true →
    ∃ t, exec i s = .next t ∧ t.ssp = s.ssp - 2#16 ∧ (regAt s.cfg s.ssp = none → readWord t s.ssp = .ok v) ∧
      t.pc = s.pc + 1#16 ∧
      Changes s t ((Touch.all .ssp).or ((WLoc.mem s.ssp).touches s.cfg)) (WLoc.mem s.ssp).bytes) ∧
    (∀ (s : State) (v : Word), s.pc.toNat + 1 ≤ 0xFFFF → s.ssp.toNat + 2 ≤ 0xFFFF → readWord s (s.ssp + 2#16) = .ok v →
    (∃ t, exec .popsA s = .next t ∧ t.a = v ∧ t.dd = true ∧ t.ssp = s.ssp + 2#16 ∧ t.pc = s.pc + 1#16 ∧
      Changes s t ((Touch.all .acc).or ((Touch.all .ssp).or Touch.dd)) []) ∧
    (∃ t, exec .popsLrb s = .next t ∧ t.lrbWord = v &&& 0x1FFF#16 ∧ t.ssp = s.ssp + 2#16 ∧ t.pc = s.pc + 1#16 ∧
      Changes s t ((Touch.all .lrb).or (Touch.all .ssp)) []))

/-- A push that would take SSP below 0000H and a pop that would take it above FFFFH are refused by name (R75, R462,
R425, R428). The refusal, stackPointerOutOfRange, is a choice: decision D1, log entry 14. -/
def Obligations.StackRefusals : Prop :=
  ∀ s : State,
    (∀ i, i ∈ [Instr.pushsA, .pushsLrb] → s.ssp.toNat < 2 → exec i s = .refused .stackPointerOutOfRange) ∧
    (∀ (tgt : Word) (i : Instr) (len : Nat), s.ssp.toNat < 2 → s.pc.toNat + len ≤ 0xFFFF →
      ((∃ rel : Byte, i = .scal rel ∧ len = 2 ∧ (tgt.toNat : Int) = s.pc.toNat + 2 + rel.toInt) ∨
        (i = .calAddr tgt ∧ len = 3) ∨
        (∃ o : WObj, i = .calObj o ∧ len = o.prefixLen + 1 ∧ loadW s o = .ok tgt) ∨
        (∃ (n : BitVec 3) (lo hi : Byte), i = .vcal n ∧ len = 1 ∧ s.rom.cell (0x28 + 2 * n.toNat) = some lo ∧
          s.rom.cell (0x29 + 2 * n.toNat) = some hi ∧ tgt = mkWord hi lo)) →
      exec i s = .refused .stackPointerOutOfRange) ∧
    (∀ src, s.due = some (.interrupt src) → s.ssp.toNat < 8 →
      (∀ k, 2 * k + 2 ≤ s.ssp.toNat → (WLoc.mem (s.ssp - BitVec.ofNat 16 (2 * k))).accessible s.cfg = true) →
      step s = .refused .stackPointerOutOfRange) ∧
    (∀ i, i ∈ [Instr.popsA, .popsLrb, .rt] → 0xFFFF < s.ssp.toNat + 2 → exec i s = .refused .stackPointerOutOfRange) ∧
    (∀ k, k < 4 → s.ssp.toNat + 2 * k ≤ 0xFFFF → 0xFFFF < s.ssp.toNat + 2 * k + 2 →
      (∀ j, j < k → ∃ v, readWord s (s.ssp + BitVec.ofNat 16 (2 * j + 2)) = .ok v) →
      exec .rti s = .refused .stackPointerOutOfRange)

/-- What the five rotates and shifts compute, at 16 and at 8 bits (R231, R234, R237, R240, R243). -/
def Obligations.ShiftsAreExact : Prop :=
  ∀ (w : Nat), w = 16 ∨ w = 8 → ∀ (v : BitVec w) (c : Bool),
    ((shiftOut .rol v c).1.toNat = (2 * v.toNat + c.toNat) % 2 ^ w ∧
      (shiftOut .rol v c).2 = decide (2 ^ w ≤ 2 * v.toNat)) ∧
    ((shiftOut .ror v c).1.toNat = v.toNat / 2 + c.toNat * 2 ^ (w - 1) ∧
      (shiftOut .ror v c).2 = decide (v.toNat % 2 = 1)) ∧
    ((shiftOut .sll v c).1.toNat = (2 * v.toNat) % 2 ^ w ∧
      (shiftOut .sll v c).2 = decide (2 ^ w ≤ 2 * v.toNat)) ∧
    ((shiftOut .srl v c).1.toNat = v.toNat / 2 ∧ (shiftOut .srl v c).2 = decide (v.toNat % 2 = 1)) ∧
    ((shiftOut .sra v c).1.toInt = v.toInt / 2 ∧ (shiftOut .sra v c).2 = decide (v.toNat % 2 = 1))

/-- The accumulator rotates and shifts: A with DD = 1, AL with DD = 0, CF the bit shifted out, nothing else (R230,
R231, R234, R237, R240, R243). -/
def Obligations.ShiftAccumulator : Prop :=
  ∀ (s : State) (i : Instr) (op : ShiftOp), s.pc.toNat + 1 ≤ 0xFFFF →
    (i, op) ∈ [(Instr.rolA, ShiftOp.rol), (.rolbA, .rol), (.rorA, .ror), (.rorbA, .ror), (.sllA, .sll),
      (.sllbA, .sll), (.srlA, .srl), (.srlbA, .srl), (.sraA, .sra), (.srabA, .sra)] →
    (s.dd = true → ∃ t, exec i s = .next t ∧ t.a = (shiftOut op s.a (s.flag .cf)).1 ∧
      t.flag .cf = (shiftOut op s.a (s.flag .cf)).2 ∧ t.pc = s.pc + 1#16 ∧
      Changes s t ((Touch.all .acc).or (Touch.flags s.cfg [.cf])) []) ∧
    (s.dd = false → ∃ t, exec i s = .next t ∧ t.al = (shiftOut op s.al (s.flag .cf)).1 ∧
      t.flag .cf = (shiftOut op s.al (s.flag .cf)).2 ∧ t.pc = s.pc + 1#16 ∧
      Changes s t ((Touch.half .acc false).or (Touch.flags s.cfg [.cf])) [])

/-- The object rotates and shifts write the object and CF and nothing else, at either DD (R230, R232, R233, R235,
R236, R238, R239, R241, R242, R244, R245, R34). -/
def Obligations.ShiftObject : Prop :=
  ∀ (s : State), legalConfig s.cfg →
    (∀ (i : Instr) (op : ShiftOp) (o : WObj) (l : WLoc) (v : Word),
      (i, op) ∈ [(Instr.rolObj o, ShiftOp.rol), (.rorObj o, .ror), (.sllObj o, .sll), (.srlObj o, .srl),
        (.sraObj o, .sra)] →
      s.pc.toNat + (o.prefixLen + 1) ≤ 0xFFFF → wordLoc s o = .ok l → readW s l = .ok v → l.holdsPswh s.cfg = false →
      ∃ t, exec i s = .next t ∧ readW t l = .ok ((shiftOut op v (s.flag .cf)).1 &&& l.mask s.cfg) ∧
        t.flag .cf = (shiftOut op v (s.flag .cf)).2 ∧ t.pc = s.pc + BitVec.ofNat 16 (o.prefixLen + 1) ∧
        Changes s t ((l.touches s.cfg).or (Touch.flags s.cfg [.cf])) l.bytes) ∧
    (∀ (i : Instr) (op : ShiftOp) (o : BObj) (m : BLoc) (b : Byte),
      (i, op) ∈ [(Instr.rolbObj o, ShiftOp.rol), (.rorbObj o, .ror), (.sllbObj o, .sll), (.srlbObj o, .srl),
        (.srabObj o, .sra)] →
      s.pc.toNat + (o.prefixLen + 1) ≤ 0xFFFF → byteLoc s o = .ok m → readB s m = .ok b → m.holdsPswh s.cfg = false →
      ∃ t, exec i s = .next t ∧ readB t m = .ok ((shiftOut op b (s.flag .cf)).1 &&& m.mask s.cfg) ∧
        t.flag .cf = (shiftOut op b (s.flag .cf)).2 ∧ t.pc = s.pc + BitVec.ofNat 16 (o.prefixLen + 1) ∧
        Changes s t ((m.touches s.cfg).or (Touch.flags s.cfg [.cf])) m.bytes)

/-- INC and DEC: the word object plus or minus 1, ZF but for INC of LRB, the second flag the parameter names, nothing
else (R260, R261, R262, R265, R266, R34, R35). -/
def Obligations.StepWordObject : Prop :=
  ∀ (s : State) (op : StepOp) (i : Instr) (o dst : WObj) (len : Nat) (l : WLoc) (v : Word), legalConfig s.cfg →
    (i, op, dst, len) ∈
      [(Instr.incX1, StepOp.inc, WObj.x1, 1), (.incX2, .inc, .x2, 1), (.incDp, .inc, .dp, 1),
      (.incLrb, .inc, .lrb, 1), (.incObj o, .inc, o, o.prefixLen + 1), (.decX1, .dec, .x1, 1),
      (.decX2, .dec, .x2, 1), (.decDp, .dec, .dp, 1), (.decLrb, .dec, .lrb, 1),
      (.decObj o, .dec, o, o.prefixLen + 1)] →
    s.pc.toNat + len ≤ 0xFFFF → wordLoc s dst = .ok l → readW s l = .ok v → l.holdsPswh s.cfg = false →
    ∃ t, exec i s = .next t ∧
      readW t l = .ok ((if op = .inc then v + 1#16 else v - 1#16) &&& l.mask s.cfg) ∧
      (¬ (l.isLrb s.cfg = true ∧ op = .inc) →
        t.flag .zf = decide (v = if op = .inc then BitVec.allOnes 16 else 1#16)) ∧
      (s.cfg.incDecFlag = .hc → t.flag .hc = decide (v.toNat % 16 = if op = .inc then 15 else 0)) ∧
      (s.cfg.incDecFlag = .cf → t.flag .cf = decide (v = if op = .inc then BitVec.allOnes 16 else 0#16)) ∧
      t.pc = s.pc + BitVec.ofNat 16 len ∧
      Changes s t ((l.touches s.cfg).or ((if l.isLrb s.cfg = true ∧ op = .inc then Touch.nothing
        else Touch.flags s.cfg [.zf]).or (Touch.flags s.cfg [if s.cfg.incDecFlag = .hc then .hc else .cf]))) l.bytes

/-- INCB and DECB: the byte object plus or minus 1, ZF but for INCB of a byte of LRB, the second flag the parameter
names, nothing else (R260, R262, R263, R267, R34). -/
def Obligations.StepByteObject : Prop :=
  ∀ (s : State) (op : StepOp) (i : Instr) (o dst : BObj) (len : Nat) (l : BLoc) (v : Byte) (r : BitVec 3), legalConfig s.cfg →
    (i, op, dst, len) ∈
      [(Instr.incbR r, StepOp.inc, BObj.r r, 1), (.incbObj o, .inc, o, o.prefixLen + 1),
      (.decbR r, .dec, .r r, 1), (.decbObj o, .dec, o, o.prefixLen + 1)] →
    s.pc.toNat + len ≤ 0xFFFF → byteLoc s dst = .ok l → readB s l = .ok v → l.holdsPswh s.cfg = false →
    ∃ t, exec i s = .next t ∧
      readB t l = .ok ((if op = .inc then v + 1#8 else v - 1#8) &&& l.mask s.cfg) ∧
      (¬ (l.isLrb s.cfg = true ∧ op = .inc) →
        t.flag .zf = decide (v = if op = .inc then BitVec.allOnes 8 else 1#8)) ∧
      (s.cfg.incDecFlag = .hc → t.flag .hc = decide (v.toNat % 16 = if op = .inc then 15 else 0)) ∧
      (s.cfg.incDecFlag = .cf → t.flag .cf = decide (v = if op = .inc then BitVec.allOnes 8 else 0#8)) ∧
      t.pc = s.pc + BitVec.ofNat 16 len ∧
      Changes s t ((l.touches s.cfg).or ((if l.isLrb s.cfg = true ∧ op = .inc then Touch.nothing
        else Touch.flags s.cfg [.zf]).or (Touch.flags s.cfg [if s.cfg.incDecFlag = .hc then .hc else .cf]))) l.bytes

/-- LC and LCB load A or AL from program memory and write ZF alone (R272, R273, R274, R275, R276, R277, R68, R72).
That they leave DD alone is the spec's own choice: R270, decision D25; log entry 24, DEDUCED; that a pointer at an odd
address is read from the even one is decision D9; log entry 23, DEDUCED. -/
def Obligations.RomLoad : Prop :=
  ∀ (s : State) (n ra : Word) (o : WObj) (i : Instr) (len : Nat), s.pc.toNat + len ≤ 0xFFFF →
    (∀ lo hi : Byte, ((i = .lcDirect n ∧ len = 4 ∧ ra = n) ∨ (i = .lcInd o ∧ len = o.prefixLen + 1 ∧ loadW s o = .ok ra) ∨
        (∃ p, i = .lcBased o n ∧ len = o.prefixLen + 3 ∧ loadW s o = .ok p ∧ ra.toNat = n.toNat + p.toNat)) →
      ra.toNat < 0xFFFF → s.rom.cell ra.toNat = some lo → s.rom.cell (ra.toNat + 1) = some hi →
      ∃ t, exec i s = .next t ∧ t.a = mkWord hi lo ∧ t.flag .zf = (mkWord hi lo == 0#16) ∧
        t.pc = s.pc + BitVec.ofNat 16 len ∧ Changes s t ((Touch.all .acc).or (Touch.flags s.cfg [.zf])) []) ∧
    (∀ b : Byte, ((i = .lcbDirect n ∧ len = 4 ∧ ra = n) ∨ (i = .lcbInd o ∧ len = o.prefixLen + 1 ∧ loadW s o = .ok ra) ∨
        (∃ p, i = .lcbBased o n ∧ len = o.prefixLen + 3 ∧ loadW s o = .ok p ∧ ra.toNat = n.toNat + p.toNat)) →
      s.rom.cell ra.toNat = some b →
      ∃ t, exec i s = .next t ∧ t.al = b ∧ t.flag .zf = (b == 0#8) ∧
        t.pc = s.pc + BitVec.ofNat 16 len ∧ Changes s t ((Touch.half .acc false).or (Touch.flags s.cfg [.zf])) [])

/-- CMPC and CMPCB compare A or AL with program memory and write ZF and CF alone (R278, R279, R280, R281, R282, R283,
R370). That they leave DD alone is the spec's own choice: R270, decision D25; log entry 24, DEDUCED; that a pointer at
an odd address is read from the even one is decision D9; log entry 23, DEDUCED. -/
def Obligations.RomCompare : Prop :=
  ∀ (s : State) (n ra : Word) (o : WObj) (i : Instr) (len : Nat), legalConfig s.cfg → s.pc.toNat + len ≤ 0xFFFF →
    (∀ lo hi : Byte, ((i = .cmpcDirect n ∧ len = 4 ∧ ra = n) ∨ (i = .cmpcInd o ∧ len = o.prefixLen + 1 ∧ loadW s o = .ok ra) ∨
        (∃ p, i = .cmpcBased o n ∧ len = o.prefixLen + 3 ∧ loadW s o = .ok p ∧ ra.toNat = n.toNat + p.toNat)) →
      ra.toNat < 0xFFFF → s.rom.cell ra.toNat = some lo → s.rom.cell (ra.toNat + 1) = some hi →
      ∃ t, exec i s = .next t ∧ t.flag .zf = decide (s.a = mkWord hi lo) ∧
        t.flag .cf = decide (s.a.toNat < (mkWord hi lo).toNat) ∧
        t.pc = s.pc + BitVec.ofNat 16 len ∧ Changes s t (Touch.flags s.cfg [.zf, .cf]) []) ∧
    (∀ b : Byte, ((i = .cmpcbDirect n ∧ len = 4 ∧ ra = n) ∨ (i = .cmpcbInd o ∧ len = o.prefixLen + 1 ∧ loadW s o = .ok ra) ∨
        (∃ p, i = .cmpcbBased o n ∧ len = o.prefixLen + 3 ∧ loadW s o = .ok p ∧ ra.toNat = n.toNat + p.toNat)) →
      s.rom.cell ra.toNat = some b →
      ∃ t, exec i s = .next t ∧ t.flag .zf = decide (s.al = b) ∧ t.flag .cf = decide (s.al.toNat < b.toNat) ∧
        t.pc = s.pc + BitVec.ofNat 16 len ∧ Changes s t (Touch.flags s.cfg [.zf, .cf]) [])

/-- What the ALU operations compute, at 16 and at 8 bits (R293, R296, R297, R340, R370). -/
def Obligations.AluIsExact : Prop :=
  ∀ (w : Nat) (a b : BitVec w) (c : Bool),
    (∀ op k, (op, k) ∈ [(AluOp.add, false), (.adc, c)] →
      (alu op a b c).result.toNat = (a.toNat + b.toNat + k.toNat) % 2 ^ w ∧
      (alu op a b c).carry = some (decide (2 ^ w ≤ a.toNat + b.toNat + k.toNat)) ∧
      (alu op a b c).half = some (decide (16 ≤ a.toNat % 16 + b.toNat % 16 + k.toNat))) ∧
    (∀ op k, (op, k) ∈ [(AluOp.sub, false), (.sbc, c), (.cmp, false)] →
      ((alu op a b c).result.toNat : Int) = ((a.toNat : Int) - b.toNat - k.toNat) % 2 ^ w ∧
      (alu op a b c).carry = some (decide (a.toNat < b.toNat + k.toNat)) ∧
      (op ≠ .cmp → (alu op a b c).half = some (decide (a.toNat % 16 < b.toNat % 16 + k.toNat)))) ∧
    (alu .cmp a b c).half = none ∧
    (∀ op, op ∈ [AluOp.and, .or, .xor] → (alu op a b c).carry = none ∧ (alu op a b c).half = none) ∧
    (∀ j, j < w → (alu .and a b c).result.getLsbD j = (a.getLsbD j && b.getLsbD j) ∧
      (alu .or a b c).result.getLsbD j = (a.getLsbD j || b.getLsbD j) ∧
      (alu .xor a b c).result.getLsbD j = (a.getLsbD j ^^ b.getLsbD j))

/-- ADD, ADC, SUB, SBC, CMP, AND, OR, XOR A,obj with DD = 1 (R290, R291, R293, R296, R340, R341, R370, R371, R108). -/
def Obligations.AluAccumulatorWord : Prop :=
  ∀ (s : State) (n v : Word) (d : Byte) (e : BitVec 2) (o : WObj) (i : Instr) (op : AluOp) (len : Nat),
    legalConfig s.cfg → s.dd = true → s.pc.toNat + len ≤ 0xFFFF →
    (((i, op) ∈ [(Instr.addAImm n, AluOp.add), (.adcAImm n, .adc), (.subAImm n, .sub), (.sbcAImm n, .sbc),
        (.cmpAImm n, .cmp), (.andAImm n, .and), (.orAImm n, .or), (.xorAImm n, .xor)] ∧ v = n ∧ len = 3) ∨
      ((i, op) ∈ [(Instr.addAEr e, AluOp.add), (.adcAEr e, .adc), (.subAEr e, .sub), (.sbcAEr e, .sbc),
        (.cmpAEr e, .cmp), (.andAEr e, .and), (.orAEr e, .or)] ∧ loadW s (.er e) = .ok v ∧ len = 1) ∨
      ((i, op) ∈ [(Instr.addAOff d, AluOp.add), (.adcAOff d, .adc), (.subAOff d, .sub), (.sbcAOff d, .sbc),
        (.cmpAOff d, .cmp), (.andAOff d, .and), (.orAOff d, .or), (.xorAOff d, .xor)] ∧ loadW s (.off d) = .ok v ∧ len = 2) ∨
      ((i, op) ∈ [(Instr.addAObj o, AluOp.add), (.adcAObj o, .adc), (.subAObj o, .sub), (.sbcAObj o, .sbc),
        (.cmpAObj o, .cmp), (.andAObj o, .and), (.orAObj o, .or), (.xorAObj o, .xor)] ∧ loadW s o = .ok v ∧ len = o.prefixLen + 1)) →
    ∃ t, exec i s = .next t ∧
      t.a = (if op.stores then (alu op s.a v (s.flag .cf)).result else s.a) ∧
      t.flag .zf = ((alu op s.a v (s.flag .cf)).result == 0#16) ∧
      (∀ c, (alu op s.a v (s.flag .cf)).carry = some c → t.flag .cf = c) ∧
      t.pc = s.pc + BitVec.ofNat 16 len ∧
      Changes s t ((if op.stores then Touch.all .acc else Touch.nothing).or (Touch.flags s.cfg op.flags)) []

/-- ADDB, ADCB, SUBB, SBCB, CMPB, ANDB, ORB, XORB A,obj with DD = 0 (R290, R291, R293, R296, R340, R341, R370, R371,
R108, R297, R21). -/
def Obligations.AluAccumulatorByte : Prop :=
  ∀ (s : State) (v d : Byte) (r : BitVec 3) (o : BObj) (i : Instr) (op : AluOp) (len : Nat),
    legalConfig s.cfg → s.dd = false → s.pc.toNat + len ≤ 0xFFFF →
    (((i, op) ∈ [(Instr.addbAImm d, AluOp.add), (.adcbAImm d, .adc), (.subbAImm d, .sub), (.sbcbAImm d, .sbc),
        (.cmpbAImm d, .cmp), (.andbAImm d, .and), (.orbAImm d, .or), (.xorbAImm d, .xor)] ∧ v = d ∧ len = 2) ∨
      ((i, op) ∈ [(Instr.addbAR r, AluOp.add), (.adcbAR r, .adc), (.subbAR r, .sub), (.sbcbAR r, .sbc),
        (.cmpbAR r, .cmp), (.andbAR r, .and), (.orbAR r, .or)] ∧ loadB s (.r r) = .ok v ∧ len = 1) ∨
      ((i, op) ∈ [(Instr.addbAOff d, AluOp.add), (.adcbAOff d, .adc), (.subbAOff d, .sub), (.sbcbAOff d, .sbc),
        (.cmpbAOff d, .cmp), (.andbAOff d, .and), (.orbAOff d, .or), (.xorbAOff d, .xor)] ∧ loadB s (.off d) = .ok v ∧ len = 2) ∨
      ((i, op) ∈ [(Instr.addbAObj o, AluOp.add), (.adcbAObj o, .adc), (.subbAObj o, .sub), (.sbcbAObj o, .sbc),
        (.cmpbAObj o, .cmp), (.andbAObj o, .and), (.orbAObj o, .or), (.xorbAObj o, .xor)] ∧ loadB s o = .ok v ∧ len = o.prefixLen + 1)) →
    ∃ t, exec i s = .next t ∧
      t.al = (if op.stores then (alu op s.al v (s.flag .cf)).result else s.al) ∧
      t.flag .zf = ((alu op s.al v (s.flag .cf)).result == 0#8) ∧
      (∀ c, (alu op s.al v (s.flag .cf)).carry = some c → t.flag .cf = c) ∧
      (∀ h, (alu op s.al v (s.flag .cf)).half = some h → t.flag .hc = h) ∧
      t.pc = s.pc + BitVec.ofNat 16 len ∧
      Changes s t ((if op.stores then Touch.half .acc false else Touch.nothing).or (Touch.flags s.cfg op.flags)) []

/-- The word ALU forms whose destination is an object, at either DD (R290, R293, R296, R298, R340, R342, R370, R34,
R35). That ZF and CF come from the 16-bit result where the destination is LRB is the spec's own choice: R298 and R342,
decision D28; log entry 27, DEDUCED; on PSW the storing forms are refused, PswhRefusals. -/
def Obligations.AluObjectWord : Prop :=
  ∀ (s : State) (n v b : Word) (d : Byte) (o : WObj) (l : WLoc) (i : Instr) (op : AluOp) (len : Nat),
    legalConfig s.cfg → s.pc.toNat + len ≤ 0xFFFF → wordLoc s o = .ok l → readW s l = .ok v →
    (op.stores = true → l.holdsPswh s.cfg = false) →
    (((i, op) ∈ [(Instr.addObjA o, AluOp.add), (.adcObjA o, .adc), (.subObjA o, .sub), (.sbcObjA o, .sbc),
        (.cmpObjA o, .cmp), (.andObjA o, .and), (.orObjA o, .or), (.xorObjA o, .xor)] ∧
        b = s.a ∧ len = o.prefixLen + 1) ∨
      ((i, op) ∈ [(Instr.addObjOff o d, AluOp.add), (.adcObjOff o d, .adc), (.subObjOff o d, .sub),
        (.sbcObjOff o d, .sbc), (.cmpObjOff o d, .cmp), (.andObjOff o d, .and), (.orObjOff o d, .or),
        (.xorObjOff o d, .xor)] ∧
        loadW s (.off d) = .ok b ∧ len = o.prefixLen + 2) ∨
      ((i, op) ∈ [(Instr.addObjImm o n, AluOp.add), (.adcObjImm o n, .adc), (.subObjImm o n, .sub),
        (.sbcObjImm o n, .sbc), (.cmpObjImm o n, .cmp), (.andObjImm o n, .and), (.orObjImm o n, .or),
        (.xorObjImm o n, .xor)] ∧
        b = n ∧ len = o.prefixLen + 3)) →
    ∃ t, exec i s = .next t ∧
      (op.stores = true → readW t l = .ok ((alu op v b (s.flag .cf)).result &&& l.mask s.cfg)) ∧
      t.flag .zf = ((alu op v b (s.flag .cf)).result == 0#16) ∧
      (∀ c, (alu op v b (s.flag .cf)).carry = some c → t.flag .cf = c) ∧
      t.pc = s.pc + BitVec.ofNat 16 len ∧
      Changes s t ((if op.stores then l.touches s.cfg else Touch.nothing).or (Touch.flags s.cfg op.flags))
        (if op.stores then l.bytes else [])

/-- The byte ALU forms whose destination is an object, at either DD (R290, R293, R296, R297, R298, R340, R342, R370,
R34). -/
def Obligations.AluObjectByte : Prop :=
  ∀ (s : State) (n v b d : Byte) (o : BObj) (l : BLoc) (i : Instr) (op : AluOp) (len : Nat),
    legalConfig s.cfg → s.pc.toNat + len ≤ 0xFFFF → byteLoc s o = .ok l → readB s l = .ok v →
    (op.stores = true → l.holdsPswh s.cfg = false) →
    (((i, op) ∈ [(Instr.addbObjA o, AluOp.add), (.adcbObjA o, .adc), (.subbObjA o, .sub), (.sbcbObjA o, .sbc),
        (.cmpbObjA o, .cmp), (.andbObjA o, .and), (.orbObjA o, .or), (.xorbObjA o, .xor)] ∧
        b = s.al ∧ len = o.prefixLen + 1) ∨
      ((i, op) ∈ [(Instr.addbObjOff o d, AluOp.add), (.adcbObjOff o d, .adc), (.subbObjOff o d, .sub),
        (.sbcbObjOff o d, .sbc), (.cmpbObjOff o d, .cmp), (.andbObjOff o d, .and), (.orbObjOff o d, .or),
        (.xorbObjOff o d, .xor)] ∧
        loadB s (.off d) = .ok b ∧ len = o.prefixLen + 2) ∨
      ((i, op) ∈ [(Instr.addbObjImm o n, AluOp.add), (.adcbObjImm o n, .adc), (.subbObjImm o n, .sub),
        (.sbcbObjImm o n, .sbc), (.cmpbObjImm o n, .cmp), (.andbObjImm o n, .and), (.orbObjImm o n, .or),
        (.xorbObjImm o n, .xor)] ∧
        b = n ∧ len = o.prefixLen + 2)) →
    ∃ t, exec i s = .next t ∧
      (op.stores = true → readB t l = .ok ((alu op v b (s.flag .cf)).result &&& l.mask s.cfg)) ∧
      t.flag .zf = ((alu op v b (s.flag .cf)).result == 0#8) ∧
      (∀ c, (alu op v b (s.flag .cf)).carry = some c → t.flag .cf = c) ∧
      (∀ h, (alu op v b (s.flag .cf)).half = some h → t.flag .hc = h) ∧
      t.pc = s.pc + BitVec.ofNat 16 len ∧
      Changes s t ((if op.stores then l.touches s.cfg else Touch.nothing).or (Touch.flags s.cfg op.flags))
        (if op.stores then l.bytes else [])

/-- ANDB, ORB and XORB of PSWH with a constant write the byte and rewrite no flag (R350, R26, R36). That every such
form leaves ZF alone is the spec's own choice: R34, decision D4; that a byte object at ADDR_PSW + 1 counts as PSWH is
the model's: log entry 17. -/
def Obligations.LogicOnPswh : Prop :=
  ∀ (s : State) (n : Byte) (o : BObj) (l : BLoc) (i : Instr) (v : Byte), byteLoc s o = .ok l →
    l.holdsPswh s.cfg = true → s.pc.toNat + (o.prefixLen + 2) ≤ 0xFFFF →
    (i, v) ∈ [(Instr.andbObjImm o n, s.psw.extractLsb' 8 8 &&& n), (.orbObjImm o n, s.psw.extractLsb' 8 8 ||| n),
      (.xorbObjImm o n, s.psw.extractLsb' 8 8 ^^^ n)] →
    exec i s = .next { s with psw := mkWord v (s.psw.extractLsb' 0 8), pc := s.pc + BitVec.ofNat 16 (o.prefixLen + 2) }

/-- MUL and MULB: the unsigned product, ZF where the spec fixes it, nothing else (R300, R301, R66, R42). Unsigned is
the spec's own choice: decision D24, log entry 25, DEDUCED; ZF of MUL is open where only the low word is zero, log
entry 13; that A keeps the low word where er1 lies over A is the model's: log entry 22. -/
def Obligations.Multiply : Prop :=
  ∀ (s : State), s.pc.toNat + 2 ≤ 0xFFFF →
    (∀ b : Word, legalConfig s.cfg → loadW s (.er 0) = .ok b →
      (WLoc.mem (erAddr s 1)).accessible s.cfg = true → (WLoc.mem (erAddr s 1)).holdsPswh s.cfg = false →
      ∃ t, exec .mul s = .next t ∧ t.a = BitVec.ofNat 16 (s.a.toNat * b.toNat) ∧
        (regAt s.cfg (erAddr s 1) ≠ some .acc → readWord t (erAddr s 1) =
          .ok (BitVec.ofNat 16 (s.a.toNat * b.toNat / 65536) &&& (WLoc.mem (erAddr s 1)).mask s.cfg)) ∧
        (s.a.toNat * b.toNat = 0 → t.flag .zf = true) ∧ (s.a.toNat * b.toNat % 65536 ≠ 0 → t.flag .zf = false) ∧
        t.pc = s.pc + 2#16 ∧
        Changes s t ((Touch.all .acc).or (((WLoc.mem (erAddr s 1)).touches s.cfg).or (Touch.flags s.cfg [.zf])))
          (WLoc.mem (erAddr s 1)).bytes) ∧
    (∀ c : Byte, loadB s (.r 0) = .ok c →
      ∃ t, exec .mulb s = .next t ∧ t.a = BitVec.ofNat 16 (s.al.toNat * c.toNat) ∧
        t.flag .zf = decide (s.al.toNat * c.toNat = 0) ∧ t.pc = s.pc + 2#16 ∧
        Changes s t ((Touch.all .acc).or (Touch.flags s.cfg [.zf])) [])

/-- DIV: the unsigned 32-bit quotient and the remainder; DIVB: quotient to A and remainder to r1 (R302, R303, R304,
R41, R42). Unsigned is the spec's own choice: decision D24, log entry 25, DEDUCED; by zero, CF = 1 and the results are
open, log entries 11 and 13; where er1 or r1 lies over A, the order of the two writes is the model's, log entry 22. -/
def Obligations.Divide : Prop :=
  (∀ (s : State) (hi d : Word), legalConfig s.cfg → s.pc.toNat + 2 ≤ 0xFFFF → loadW s (.er 0) = .ok hi → loadW s (.er 2) = .ok d →
    (WLoc.mem (erAddr s 1)).accessible s.cfg = true → (WLoc.mem (erAddr s 0)).holdsPswh s.cfg = false →
    (WLoc.mem (erAddr s 1)).holdsPswh s.cfg = false →
    ∃ t, exec .div s = .next t ∧ t.flag .cf = decide (d = 0#16) ∧
      (d ≠ 0#16 →
        t.a = (if regAt s.cfg (erAddr s 1) = some .acc then BitVec.ofNat 16 ((hi.toNat * 65536 + s.a.toNat) % d.toNat)
          else BitVec.ofNat 16 ((hi.toNat * 65536 + s.a.toNat) / d.toNat)) ∧
        (regAt s.cfg (erAddr s 0) ≠ some .acc → readWord t (erAddr s 0) = .ok (BitVec.ofNat 16 ((hi.toNat * 65536 + s.a.toNat) / d.toNat / 65536) &&&
          (WLoc.mem (erAddr s 0)).mask s.cfg)) ∧
        readWord t (erAddr s 1) = .ok (BitVec.ofNat 16 ((hi.toNat * 65536 + s.a.toNat) % d.toNat) &&&
          (WLoc.mem (erAddr s 1)).mask s.cfg) ∧
        ((hi.toNat * 65536 + s.a.toNat) / d.toNat = 0 → t.flag .zf = true) ∧
        ((hi.toNat * 65536 + s.a.toNat) / d.toNat % 65536 ≠ 0 → t.flag .zf = false)) ∧
      t.pc = s.pc + 2#16 ∧
      Changes s t ((Touch.all .acc).or (((WLoc.mem (erAddr s 0)).touches s.cfg).or
        (((WLoc.mem (erAddr s 1)).touches s.cfg).or (Touch.flags s.cfg [.zf, .cf]))))
        ((WLoc.mem (erAddr s 0)).bytes ++ (WLoc.mem (erAddr s 1)).bytes)) ∧
    (∀ (s : State) (d : Byte), legalConfig s.cfg → s.pc.toNat + 2 ≤ 0xFFFF → loadB s (.r 0) = .ok d →
    (BLoc.mem (rAddr s 1)).accessible s.cfg = true → (BLoc.mem (rAddr s 1)).holdsPswh s.cfg = false →
    ∃ t, exec .divb s = .next t ∧ t.flag .cf = decide (d = 0#8) ∧
      (d ≠ 0#8 →
        t.a = (if regAt s.cfg (rAddr s 1) = some .acc then
            mkWord (BitVec.ofNat 8 (s.a.toNat % d.toNat)) (BitVec.ofNat 8 (s.a.toNat / d.toNat))
          else BitVec.ofNat 16 (s.a.toNat / d.toNat)) ∧
        readByte t (rAddr s 1) = .ok (BitVec.ofNat 8 (s.a.toNat % d.toNat) &&& (BLoc.mem (rAddr s 1)).mask s.cfg) ∧
        t.flag .zf = decide (s.a.toNat / d.toNat = 0)) ∧
      t.pc = s.pc + 2#16 ∧
      Changes s t ((Touch.all .acc).or (((BLoc.mem (rAddr s 1)).touches s.cfg).or (Touch.flags s.cfg [.zf, .cf])))
        (BLoc.mem (rAddr s 1)).bytes)

/-- A PC, a relative target and a program-memory address that leave 0000H..FFFFH are refused by name (R23, R24, R104,
R122, R270, R410, R411, R72). The refusals pcPastEnd, targetOutOfRange, romSumOutOfRange and romWordPastEnd are
choices: decision D1, log entry 14. -/
def Obligations.AddressRefusals : Prop :=
  ∀ s : State,
    (∀ (i : Instr) (len : Nat) (n : Word) (d : Byte), 0xFFFF < s.pc.toNat + len →
      (i, len) ∈ [(Instr.nop, 1), (.sc, 1), (.rc, 1), (.clrA, 1), (.clrbA, 1), (.lImm n, 3), (.lbImm d, 2),
        (.movLrbImm n, 3), (.swap, 1), (.swapb, 1), (.rolA, 1), (.rolbA, 1), (.rorA, 1), (.rorbA, 1), (.sllA, 1),
        (.sllbA, 1), (.srlA, 1), (.srlbA, 1), (.sraA, 1), (.srabA, 1), (.daa, 1), (.das, 1), (.extnd, 1), (.incLrb, 1),
        (.decLrb, 1)] ∨
      (s.dd = true ∧ (i, len) ∈ [(.addAImm n, 3), (.adcAImm n, 3), (.subAImm n, 3), (.sbcAImm n, 3), (.cmpAImm n, 3),
        (.andAImm n, 3), (.orAImm n, 3), (.xorAImm n, 3)]) ∨
      (s.dd = false ∧ (i, len) ∈ [(.addbAImm d, 2), (.adcbAImm d, 2), (.subbAImm d, 2), (.sbcbAImm d, 2),
        (.cmpbAImm d, 2), (.andbAImm d, 2), (.orbAImm d, 2), (.xorbAImm d, 2)]) →
      exec i s = .refused .pcPastEnd) ∧
    (∀ (i : Instr) (bs : List Byte) (p : Word) (t : State), i.transfers = false →
      (∀ b, i.ddSelect = some b → s.dd = b) → encode s.cfg.opcodes i = some bs → exec i { s with pc := p } = .next t →
      0xFFFF < s.pc.toNat + bs.length → exec i s = .refused .pcPastEnd) ∧
    (∀ (rel : Byte) (i : Instr) (len : Nat) (taken : Bool),
      ((i, len, taken) ∈ [(Instr.jcGt rel, 2, !s.flag .zf && !s.flag .cf), (.jcEq rel, 2, s.flag .zf),
          (.jcLt rel, 2, s.flag .cf), (.jcGe rel, 2, !s.flag .cf), (.jcNe rel, 2, !s.flag .zf),
          (.jcLe rel, 2, s.flag .zf || s.flag .cf)] ∨
        (∃ (d v : Byte) (n : BitVec 3), readByte s (pageAddr s d) = .ok v ∧
          (i, len, taken) ∈ [(Instr.jbs n d rel, 3, v.getLsbD n.toNat), (.jbr n d rel, 3, !v.getLsbD n.toNat)]) ∨
        (∃ v : Byte, readByte s (ptrAddr s .dp) = .ok v ∧ i = .jrnz rel ∧ len = 2 ∧ taken = decide (v ≠ 1#8)) ∨
        (i = .scal rel ∧ len = 2 ∧ taken = true)) →
      (taken = false → 0xFFFF < s.pc.toNat + len → exec i s = .refused .pcPastEnd) ∧
      (taken = true → (s.pc.toNat : Int) + len + rel.toInt < 0 ∨ 0xFFFF < (s.pc.toNat : Int) + len + rel.toInt →
        exec i s = .refused .targetOutOfRange)) ∧
    (∀ (tgt : Word) (i : Instr) (len : Nat), 0xFFFF < s.pc.toNat + len →
      ((∃ rel : Byte, i = .scal rel ∧ len = 2 ∧ (tgt.toNat : Int) = s.pc.toNat + 2 + rel.toInt) ∨
        (i = .calAddr tgt ∧ len = 3) ∨
        (∃ o : WObj, i = .calObj o ∧ len = o.prefixLen + 1 ∧ loadW s o = .ok tgt) ∨
        (∃ (n : BitVec 3) (lo hi : Byte), i = .vcal n ∧ len = 1 ∧ s.rom.cell (0x28 + 2 * n.toNat) = some lo ∧
          s.rom.cell (0x29 + 2 * n.toNat) = some hi ∧ tgt = mkWord hi lo)) →
      exec i s = .refused .pcPastEnd) ∧
    (s.due = none → decode s.cfg.opcodes s.dd (fetchBytes s.rom s.pc.toNat 6) = .incomplete →
      0xFFFF < s.pc.toNat + (fetchBytes s.rom s.pc.toNat 6).length → step s = .refused .pcPastEnd) ∧
    (∀ (o : WObj) (n p : Word) (i : Instr), loadW s o = .ok p → 0xFFFF < n.toNat + p.toNat →
      i ∈ [Instr.lcBased o n, .lcbBased o n, .cmpcBased o n, .cmpcbBased o n] →
      exec i s = .refused .romSumOutOfRange) ∧
    (∀ (o : WObj) (n p : Word) (i : Instr),
      (i ∈ [Instr.lcDirect 0xFFFF#16, .cmpcDirect 0xFFFF#16] ∨
        (loadW s o = .ok 0xFFFF#16 ∧ i ∈ [Instr.lcInd o, .cmpcInd o]) ∨
        (loadW s o = .ok p ∧ n.toNat + p.toNat = 0xFFFF ∧ i ∈ [Instr.lcBased o n, .cmpcBased o n])) →
      exec i s = .refused .romWordPastEnd)

/-- DAA and DAS correct a packed decimal sum or difference (R380, R381, R382, R383). Following the Function lines, a
nibble of ten or more, and the set of flags written are the spec's own choices: decisions D20 and D27, log entry 26,
DEDUCED; ZF is open after DAS, log entry 13. -/
def Obligations.DecimalAdjust : Prop :=
  (∀ s : State, legalConfig s.cfg → s.pc.toNat + 1 ≤ 0xFFFF →
      (∃ t, exec .daa s = .next t ∧ (t.al, t.flag .cf, t.flag .hc) = daaOut s.al (s.flag .cf) (s.flag .hc) ∧
        t.pc = s.pc + 1#16 ∧ Changes s t ((Touch.half .acc false).or (Touch.flags s.cfg [.cf, .hc])) []) ∧
      (∃ t, exec .das s = .next t ∧ t.al = dasOut s.al (s.flag .cf) (s.flag .hc) ∧ t.flag .hc = false ∧
        t.flag .cf = s.flag .cf ∧ t.pc = s.pc + 1#16 ∧
        Changes s t ((Touch.half .acc false).or (Touch.flags s.cfg [.hc, .zf])) [])) ∧
    (∀ x y : Fin 100,
      let bcd (k : Nat) : Byte := BitVec.ofNat 8 (k / 10 * 16 + k % 10)
      let sum := alu .add (bcd x) (bcd y) false
      let out := daaOut sum.result (sum.carry.getD false) (sum.half.getD false)
      out.1 = bcd ((x.val + y.val) % 100) ∧ out.2.1 = decide (100 ≤ x.val + y.val)) ∧
    (∀ (x y : Fin 100) (c : Bool),
    let bcd (k : Nat) : Byte := BitVec.ofNat 8 (k / 10 * 16 + k % 10)
    let diff := alu .sbc (bcd x) (bcd y) c
    dasOut diff.result (diff.carry.getD false) (diff.half.getD false) =
      bcd ((x.val + 100 - y.val - c.toNat) % 100) ∧
    diff.carry = some (decide (x.val < y.val + c.toNat)))

/-- EXTND fills AH with bit 7 of AL and sets DD, whatever DD was, and writes no other flag (R384). -/
def Obligations.SignExtend : Prop :=
  ∀ s : State, encode s.cfg.opcodes .extnd = some [0xF8#8] ∧ (s.pc.toNat + 1 ≤ 0xFFFF →
    ∃ t, exec .extnd s = .next t ∧
      t.a = mkWord (if s.a.getLsbD 7 then 0xFF#8 else 0x00#8) (s.a.extractLsb' 0 8) ∧ t.dd = true ∧
      t.pc = s.pc + 1#16 ∧ Changes s t ((Touch.half .acc true).or Touch.dd) [])

/-- SB, RB, SBR and RBR: ZF tells the old bit was 0, and the one bit is written (on PSWH ZF is open, log entry 13)
(R390, R391, R393, R394, R397, R398, R34). -/
def Obligations.SetResetBit : Prop :=
  ∀ (s : State) (o : BObj) (k n : BitVec 3) (i : Instr) (b : Bool) (l : BLoc) (v : Byte), legalConfig s.cfg →
    (i, n, b) ∈ [(Instr.sbBit o k, k, true), (.rbBit o k, k, false), (.sbrObj o, s.a.setWidth 3, true),
      (.rbrObj o, s.a.setWidth 3, false)] →
    s.pc.toNat + (o.prefixLen + 1) ≤ 0xFFFF → byteLoc s o = .ok l → readB s l = .ok v →
    ∃ t, exec i s = .next t ∧ t.pc = s.pc + BitVec.ofNat 16 (o.prefixLen + 1) ∧
      (l.holdsPswh s.cfg = false →
        readB t l = .ok ((if b then v ||| (1#8 <<< n.toNat) else v &&& ~~~(1#8 <<< n.toNat)) &&& l.mask s.cfg) ∧
        t.flag .zf = !v.getLsbD n.toNat ∧
        Changes s t ((l.touches s.cfg).or (Touch.flags s.cfg [.zf])) l.bytes) ∧
      (l.holdsPswh s.cfg = true →
        (∀ j : Nat, j < 8 → j + 8 ≠ s.cfg.zfBit.val → t.psw.getLsbD (j + 8) = (if j = n.toNat then b else v.getLsbD j)) ∧
        Changes s t (Touch.half .psw true) l.bytes)

/-- TBR, MB C,obj.bit and MBR C,obj read a bit; MB obj.bit,C and MBR obj,C write it; no other flag (R395, R396, R399,
R400, R401, R391). -/
def Obligations.TestMoveBit : Prop :=
  ∀ (s : State) (o : BObj) (k n : BitVec 3) (i : Instr) (l : BLoc) (v : Byte),
    s.pc.toNat + (o.prefixLen + 1) ≤ 0xFFFF → byteLoc s o = .ok l → readB s l = .ok v →
    (∃ t, exec (.tbrObj o) s = .next t ∧ t.flag .zf = !v.getLsbD (s.a.setWidth 3 : BitVec 3).toNat ∧
      t.pc = s.pc + BitVec.ofNat 16 (o.prefixLen + 1) ∧ Changes s t (Touch.flags s.cfg [.zf]) []) ∧
    ((i, n) ∈ [(Instr.mbCBit o k, k), (.mbrCObj o, s.a.setWidth 3)] →
      ∃ t, exec i s = .next t ∧ t.flag .cf = v.getLsbD n.toNat ∧
        t.pc = s.pc + BitVec.ofNat 16 (o.prefixLen + 1) ∧ Changes s t (Touch.flags s.cfg [.cf]) []) ∧
    ((i, n) ∈ [(Instr.mbBitC o k, k), (.mbrObjC o, s.a.setWidth 3)] →
      ∃ t, exec i s = .next t ∧
        readB t l = .ok ((if s.flag .cf then v ||| (1#8 <<< n.toNat) else v &&& ~~~(1#8 <<< n.toNat)) &&&
          l.mask s.cfg) ∧
        t.pc = s.pc + BitVec.ofNat 16 (o.prefixLen + 1) ∧ Changes s t (l.touches s.cfg) l.bytes)

/-- SJ, J address and J [obj] replace PC and change nothing else (R411, R412, R413, R414). That SJ is refused,
targetOutOfRange, where its target leaves 0000H..FFFFH is a choice: decision D1, log entry 14; that J [obj] reads an
odd address from the even one is the spec's own, decision D9; log entry 23, DEDUCED. -/
def Obligations.Jumps : Prop :=
  ∀ s : State,
    (∀ (rel : Byte) (tgt : Word), (tgt.toNat : Int) = s.pc.toNat + 2 + rel.toInt →
      exec (.sj rel) s = .next { s with pc := tgt }) ∧
    (∀ rel : Byte, (s.pc.toNat : Int) + 2 + rel.toInt < 0 ∨ 0xFFFF < (s.pc.toNat : Int) + 2 + rel.toInt →
      exec (.sj rel) s = .refused .targetOutOfRange) ∧
    (∀ ad : Word, exec (.jAddr ad) s = .next { s with pc := ad }) ∧
    (∀ (o : WObj) (v : Word), loadW s o = .ok v → exec (.jObj o) s = .next { s with pc := v })

/-- JC, JBS and JBR jump exactly when their condition holds and change PC alone (R417, R418, R419, R411, R24). -/
def Obligations.ConditionalJumps : Prop :=
  ∀ (s : State) (rel : Byte) (tgt : Word) (i : Instr) (len : Nat) (taken : Bool),
    ((i, len, taken) ∈ [(Instr.jcGt rel, 2, !s.flag .zf && !s.flag .cf), (.jcEq rel, 2, s.flag .zf),
        (.jcLt rel, 2, s.flag .cf), (.jcGe rel, 2, !s.flag .cf), (.jcNe rel, 2, !s.flag .zf),
        (.jcLe rel, 2, s.flag .zf || s.flag .cf)] ∨
      ∃ (d v : Byte) (n : BitVec 3), readByte s (pageAddr s d) = .ok v ∧
        (i, len, taken) ∈ [(Instr.jbs n d rel, 3, v.getLsbD n.toNat), (.jbr n d rel, 3, !v.getLsbD n.toNat)]) →
    (if taken then (tgt.toNat : Int) = s.pc.toNat + len + rel.toInt else tgt.toNat = s.pc.toNat + len) →
    exec i s = .next { s with pc := tgt }

/-- JRNZ takes 1 from the low byte of DP, keeps its high byte and jumps while it is not 0, writing no flag (R421, R38,
R411). -/
def Obligations.LoopJump : Prop :=
  ∀ (s : State) (rel v : Byte) (tgt : Word), legalConfig s.cfg → readByte s (ptrAddr s .dp) = .ok v →
    (if v = 1#8 then tgt.toNat = s.pc.toNat + 2 else (tgt.toNat : Int) = s.pc.toNat + 2 + rel.toInt) →
    ∃ t, exec (.jrnz rel) s = .next t ∧ readByte t (ptrAddr s .dp) = .ok (v - 1#8) ∧ t.pc = tgt ∧
      Changes s t Touch.nothing [ptrAddr s .dp]

/-- SCAL, CAL address, CAL [obj] and VCAL push the return address, clear SF and load PC (R422, R423, R424, R425, R426,
R75). That CAL [obj] takes its target from the state before the push, and reads it from the even address, is the
spec's own choice: R425 and R67, decision D9; log entry 23, DEDUCED; that SSP is the old SSP less 2 where the stack
word lies over ADDR_SSP is the model's: log entry 22. -/
def Obligations.Calls : Prop :=
  ∀ (s : State) (tgt : Word) (i : Instr) (len : Nat), s.pc.toNat + len ≤ 0xFFFF → 2 ≤ s.ssp.toNat →
    (WLoc.mem s.ssp).accessible s.cfg = true →
    ((∃ rel : Byte, i = .scal rel ∧ len = 2 ∧ (tgt.toNat : Int) = s.pc.toNat + 2 + rel.toInt) ∨
      (i = .calAddr tgt ∧ len = 3) ∨
      (∃ o : WObj, i = .calObj o ∧ len = o.prefixLen + 1 ∧ loadW s o = .ok tgt) ∨
      (∃ (n : BitVec 3) (lo hi : Byte), i = .vcal n ∧ len = 1 ∧ s.rom.cell (0x28 + 2 * n.toNat) = some lo ∧
        s.rom.cell (0x29 + 2 * n.toNat) = some hi ∧ tgt = mkWord hi lo)) →
    ∃ t, exec i s = .next t ∧ t.pc = tgt ∧ t.ssp = s.ssp - 2#16 ∧ t.flag .sf = false ∧
      (regAt s.cfg s.ssp = none → readWord t s.ssp = .ok (s.pc + BitVec.ofNat 16 len)) ∧
      Changes s t ((Touch.all .ssp).or (((WLoc.mem s.ssp).touches s.cfg).or (Touch.flags s.cfg [.sf])))
        (WLoc.mem s.ssp).bytes

/-- RT adds 2 to SSP, loads PC from the word there and clears SF, so that it comes back to the instruction after a
call (R427, R75, R423, R425, R77). That a word popped from ADDR_SSP is the old SSP is the model's choice: log entry
22. -/
def Obligations.ReturnRt : Prop :=
  (∀ (s : State) (v : Word), s.ssp.toNat + 2 ≤ 0xFFFF → readWord s (s.ssp + 2#16) = .ok v →
    ∃ t, exec .rt s = .next t ∧ t.pc = v ∧ t.ssp = s.ssp + 2#16 ∧ t.flag .sf = false ∧
      Changes s t ((Touch.all .ssp).or (Touch.flags s.cfg [.sf])) []) ∧
    (∀ (s : State) (ad : Word), s.pc.toNat + 3 ≤ 0xFFFF → 2 ≤ s.ssp.toNat → regAt s.cfg s.ssp = none →
    (WLoc.mem s.ssp).accessible s.cfg = true →
    ∃ t, exec (.calAddr ad) s = .next t ∧ t.pc = ad ∧
      (∀ h : State, h.cfg = s.cfg → h.ssp = t.ssp → readWord h s.ssp = readWord t s.ssp →
        ∃ u, exec .rt h = .next u ∧ u.pc = s.pc + 3#16 ∧ u.ssp = s.ssp) ∧
      (∃ u, exec .rt t = .next u ∧ Changes s u (Touch.flags s.cfg [.sf]) (WLoc.mem s.ssp).bytes))

/-- RTI pops PSW, LRB, A and PC in that order and adds 8 to SSP (R428, R75, R35, R43). That each pop reads the state
as it was before that pop moved SSP, and that PSW, LRB, A and PC are loaded after all four pops, which shows only
where the frame lies over a CPU register, is the model's choice: log entry 22, on the spec's decision D6. -/
def Obligations.ReturnRti : Prop :=
  ∀ (s : State) (p l a c : Word), s.ssp.toNat + 8 ≤ 0xFFFF →
    (readWord s (s.ssp + 2#16) = .ok p → readWord { s with ssp := s.ssp + 2#16 } (s.ssp + 4#16) = .ok l →
      readWord { s with ssp := s.ssp + 4#16 } (s.ssp + 6#16) = .ok a →
      readWord { s with ssp := s.ssp + 6#16 } (s.ssp + 8#16) = .ok c →
      exec .rti s = .next
        { s with psw := p, lrb := l.extractLsb' 0 13, a := a, pc := c, ssp := s.ssp + 8#16 }) ∧
    (readWord s (s.ssp + 2#16) = .ok p → readWord s (s.ssp + 4#16) = .ok l → readWord s (s.ssp + 6#16) = .ok a →
      readWord s (s.ssp + 8#16) = .ok c → (∀ k ∈ [4#16, 6#16, 8#16], regAt s.cfg (s.ssp + k) ≠ some .ssp) →
      exec .rti s = .next
        { s with psw := p, lrb := l.extractLsb' 0 13, a := a, pc := c, ssp := s.ssp + 8#16 })

/-- Taking an interrupt saves PC, A, LRB and PSW on the stack, loads PC from its vector and changes nothing else
(R460, R462, R463, R77, R452). Push order DEDUCED by the spec, decision D17; log entry 21. -/
def Obligations.InterruptEntry : Prop :=
  ∀ (s : State) (src : IntSource) (lo hi : Byte),
    s.due = some (.interrupt src) → 8 ≤ s.ssp.toNat →
    (∀ k, k ∈ [0#16, 2#16, 4#16, 6#16] → regAt s.cfg (s.ssp - k) = none ∧
      (WLoc.mem (s.ssp - k)).accessible s.cfg = true) →
    s.rom.cell src.vector.toNat = some lo → s.rom.cell (src.vector.toNat + 1) = some hi →
    ∃ t, step s = .next t ∧ t.pc = mkWord hi lo ∧ t.ssp = s.ssp - 8#16 ∧
      readWord t s.ssp = .ok s.pc ∧ readWord t (s.ssp - 2#16) = .ok s.a ∧
      readWord t (s.ssp - 4#16) = .ok s.lrbWord ∧ readWord t (s.ssp - 6#16) = .ok s.psw ∧
      t.a = s.a ∧ t.lrb = s.lrb ∧ t.psw = s.psw ∧ t.cfg = s.cfg ∧ t.rom = s.rom ∧ t.env = s.env.next ∧
      (∀ ea, (∀ k, k ∈ [0#16, 2#16, 4#16, 6#16] → ea ∉ (WLoc.mem (s.ssp - k)).bytes) →
        regAt s.cfg ea = none → readByte t ea = readByte s ea)

/-- RTI gives the interrupted program back its PC, A, LRB, PSW and SSP, whatever the handler did to them (R462, R463,
R465, R428, R77, R26). The order of the pushes is DEDUCED by the spec, decision D17; log entry 21. -/
def Obligations.RtiUndoesInterrupt : Prop :=
  ∀ (s t h : State) (src : IntSource), 8 ≤ s.ssp.toNat →
    (∀ k, k ≤ 8 → regAt s.cfg (s.ssp - BitVec.ofNat 16 k) = none) →
    takeInterrupt src s = .ok t → h.cfg = t.cfg → h.ssp = t.ssp →
    (∀ k, k ∈ [0#16, 2#16, 4#16, 6#16] → readWord h (s.ssp - k) = readWord t (s.ssp - k)) →
    exec .rti h = .next { h with pc := s.pc, a := s.a, lrb := s.lrb, psw := s.psw, ssp := s.ssp }

/-- BRK and a live watchdog overflow reset the machine through 0002H and 0004H (what they leave elsewhere is open, log
entry 10) (R443, R453, R455, R452, R492). -/
def Obligations.ResetEvents : Prop :=
  ∀ (s : State) (lo hi : Byte),
    (s.rom.cell 2 = some lo → s.rom.cell 3 = some hi →
      ∃ t, exec .brk s = .next t ∧ t.pc = mkWord hi lo ∧ t.dd = false ∧ t.cfg = s.cfg ∧ t.rom = s.rom ∧
        t.env = s.env ∧ (s.cfg.resetKeepsRam = true → t.ram = s.ram)) ∧
    (s.due = some .watchdog →
      s.rom.cell 4 = some lo → s.rom.cell 5 = some hi →
      ∃ t, step s = .next t ∧ t.pc = mkWord hi lo ∧ t.dd = false ∧ t.cfg = s.cfg ∧ t.rom = s.rom ∧
        t.env = s.env.next ∧ (s.cfg.resetKeepsRam = true → t.ram = s.ram))

/-- A code that is no instruction is refused, or resets through 0004H where ILLEGAL_OPCODE = optrap (R135, R456,
R453). That each prefix row with a suffix it does not pair with and the illegal row do what ILLEGAL_OPCODE says is a
choice: DESIGN CHOICE, log entry 6, and the spec's decision D14; that the optrap reset is the same processing as the
other resets, with DD = 0, is R453's own derivation; what it leaves elsewhere is open, log entry 10. -/
def Obligations.IllegalCodes : Prop :=
  ∀ (s : State) (e : BitVec 2) (r : BitVec 3) (n : Word) (d sfx lo hi : Byte) (i : Instr),
    i ∈ [Instr.wpEr e sfx, .wpX1 sfx, .wpX2 sfx, .wpDp sfx, .wpSsp sfx, .wpUsp sfx, .wpLrb sfx,
      .wpX1Ind n sfx, .wpX2Ind n sfx, .wpDpInd sfx, .wpUspInd d sfx, .wpOff d sfx, .wpZp d sfx, .bpR r sfx,
      .bpPswh sfx, .bpPswl sfx, .bpX1Ind n sfx, .bpX2Ind n sfx, .bpDpInd sfx, .bpUspInd d sfx,
      .bpOff d sfx, .bpZp d sfx, .illegal sfx] →
    (s.cfg.illegalOpcode = .refuse → exec i s = .refused .illegalCode) ∧
    (s.cfg.illegalOpcode = .optrap → s.rom.cell 4 = some lo → s.rom.cell 5 = some hi →
      ∃ t, exec i s = .next t ∧ t.pc = mkWord hi lo ∧ t.dd = false ∧ t.cfg = s.cfg ∧ t.rom = s.rom ∧
        t.env = s.env ∧ (s.cfg.resetKeepsRam = true → t.ram = s.ram))

/-- A prefixed A,obj form under the wrong DD, and a shared code naming er4 to er7 while DD = 1, are refused by name
(R108, R137, R291, R212, R213, R456). Both refusals are choices: ddMismatch is decision D15, log entries 15 and 38;
noWordRegister is decision D13, log entries 16 and 38. -/
def Obligations.DataDescriptorRefusals : Prop :=
  (∀ (s : State) (o : WObj) (p : BObj) (i : Instr),
    (s.dd = false → i ∈ [Instr.addAObj o, .adcAObj o, .subAObj o, .sbcAObj o, .cmpAObj o, .andAObj o, .orAObj o, .xorAObj o,
        .xchgAObj o] →
      exec i s = .refused .ddMismatch) ∧
    (s.dd = true → i ∈ [Instr.addbAObj p, .adcbAObj p, .subbAObj p, .sbcbAObj p, .cmpbAObj p, .andbAObj p, .orbAObj p,
        .xorbAObj p, .xchgbAObj p] →
      exec i s = .refused .ddMismatch)) ∧
    (∀ (ops : Opcodes) (b : Byte) (bs : List Byte),
      b &&& 0xFC#8 ∈ [0x8C#8, 0x0C#8, 0x1C#8, 0x2C#8, 0x3C#8, 0x4C#8, 0x5C#8, 0x6C#8] →
      decode ops true (b :: bs) = .noWordRegister) ∧
    (∀ s : State, s.due = none →
      decode s.cfg.opcodes s.dd (fetchBytes s.rom s.pc.toNat 6) = .noWordRegister →
      step s = .refused .noWordRegister)

/-- An instruction that writes PSWH, by name or at its data address, and also a flag in it is refused by name (R34,
R36, R298, R342, R260). The refusal, pswhFlagOrder, is a choice: decision D4; that the data address, the word at
ADDR_PSW and er0, er1 and r1 over PSW count as PSWH is the model's: log entry 17. -/
def Obligations.PswhRefusals : Prop :=
  (∀ (s : State) (o : BObj) (n d b : Byte) (l : BLoc) (i : Instr), byteLoc s o = .ok l → l.holdsPswh s.cfg = true →
      (i ∈ [Instr.rolbObj o, .rorbObj o, .sllbObj o, .srlbObj o, .srabObj o, .incbObj o, .decbObj o, .addbObjA o,
          .adcbObjA o, .subbObjA o, .sbcbObjA o, .andbObjA o, .orbObjA o, .xorbObjA o, .addbObjImm o n,
          .adcbObjImm o n, .subbObjImm o n, .sbcbObjImm o n] ∨
        (∃ r, o = .r r ∧ i ∈ [Instr.incbR r, .decbR r]) ∨
        (loadB s (.off d) = .ok b ∧ i ∈ [Instr.addbObjOff o d, .adcbObjOff o d, .subbObjOff o d, .sbcbObjOff o d, .andbObjOff o d,
          .orbObjOff o d, .xorbObjOff o d])) →
      exec i s = .refused .pswhFlagOrder) ∧
    (∀ (s : State) (o : WObj) (n b : Word) (d : Byte) (l : WLoc) (i : Instr), wordLoc s o = .ok l →
      l.holdsPswh s.cfg = true →
      (i ∈ [Instr.rolObj o, .rorObj o, .sllObj o, .srlObj o, .sraObj o, .incObj o, .decObj o, .addObjA o,
          .adcObjA o, .subObjA o, .sbcObjA o, .andObjA o, .orObjA o, .xorObjA o, .addObjImm o n,
          .adcObjImm o n, .subObjImm o n, .sbcObjImm o n, .andObjImm o n, .orObjImm o n, .xorObjImm o n] ∨
        (i, o) ∈ [(Instr.incX1, WObj.x1), (.incX2, .x2), (.incDp, .dp), (.decX1, .x1), (.decX2, .x2), (.decDp, .dp)] ∨
        (loadW s (.off d) = .ok b ∧ i ∈ [Instr.addObjOff o d, .adcObjOff o d, .subObjOff o d, .sbcObjOff o d, .andObjOff o d, .orObjOff o d,
          .xorObjOff o d])) →
      exec i s = .refused .pswhFlagOrder) ∧
    (∀ (s : State) (b d : Word) (c : Byte),
      (loadW s (.er 0) = .ok b → (WLoc.mem (erAddr s 1)).holdsPswh s.cfg = true →
        exec .mul s = .refused .pswhFlagOrder) ∧
      (loadW s (.er 0) = .ok b → loadW s (.er 2) = .ok d →
        (WLoc.mem (erAddr s 0)).holdsPswh s.cfg = true ∨ (WLoc.mem (erAddr s 1)).holdsPswh s.cfg = true →
        exec .div s = .refused .pswhFlagOrder) ∧
      (loadB s (.r 0) = .ok c → (BLoc.mem (rAddr s 1)).holdsPswh s.cfg = true →
        exec .divb s = .refused .pswhFlagOrder))

/-- SC sets CF, RC clears it, NOP does nothing; PC moves by 1 and nothing else changes (R441, R442, R444). -/
def Obligations.CarryAndNop : Prop :=
  ∀ s : State,
    encode s.cfg.opcodes .sc = some [0x85#8] ∧ encode s.cfg.opcodes .rc = some [0x95#8] ∧
    encode s.cfg.opcodes .nop = some [0x00#8] ∧
    (s.pc.toNat + 1 ≤ 0xFFFF →
      (∃ t, exec .sc s = .next t ∧ t.flag .cf = true ∧ t.pc = s.pc + 1#16 ∧ Changes s t (Touch.flags s.cfg [.cf]) []) ∧
      (∃ t, exec .rc s = .next t ∧ t.flag .cf = false ∧ t.pc = s.pc + 1#16 ∧ Changes s t (Touch.flags s.cfg [.cf]) []) ∧
      exec .nop s = .next { s with pc := s.pc + 1#16 })
end

