-- ==== Sys2Proof/Laws/Memory.lean ====
section
/-! SUPPORT. Laws of memory: a read after a write, and the canonical form kept by every operation
(spec/20_memory.md R60, R61). -/

namespace Sys2Proof.Machine

/-- What is listed at an address after a byte is listed. -/
theorem Memory.cell_store (m : Memory) (a : Nat) (b : Byte) (k : Nat) :
    Memory.cell (m.store a b) k = if k = a then some b else m.cell k := by
  induction m with
  | nil => simp [Memory.store, Memory.cell, eq_comm]
  | cons x m ih =>
    obtain ⟨j, c⟩ := x
    by_cases h1 : a < j
    · by_cases h : k = a
      · subst h; simp [Memory.store, Memory.cell, h1]
      · simp [Memory.store, Memory.cell, h1, h, Ne.symm h]
    · by_cases h2 : a = j
      · subst h2
        by_cases h : k = a
        · subst h; simp [Memory.store, Memory.cell]
        · simp [Memory.store, Memory.cell, h, Ne.symm h]
      · by_cases h : j = k
        · subst h; simp [Memory.store, Memory.cell, h1, h2, Ne.symm h2]
        · simp [Memory.store, Memory.cell, h1, h2, h, ih]

/-- What is listed at an address after another is removed. -/
theorem Memory.cell_forget (m : Memory) (a k : Nat) :
    Memory.cell (m.forget a) k = if k = a then none else m.cell k := by
  induction m with
  | nil => simp [Memory.forget, Memory.cell]
  | cons x m ih =>
    obtain ⟨j, c⟩ := x
    unfold Memory.forget at ih ⊢
    by_cases hj : j = a
    · subst hj
      by_cases h : k = j
      · subst h; simpa using ih
      · simp [Memory.cell, h, Ne.symm h, ih]
    · by_cases h : j = k
      · subst h; simp [Memory.cell, hj]
      · simp [Memory.cell, hj, h, ih]

/-- A data byte reads as it was last written; every other byte is left alone. -/
theorem Memory.read_write (m : Memory) (a : Nat) (b : Byte) (k : Nat) :
    (m.write a b).read k = if k = a then b else m.read k := by
  unfold Memory.write Memory.read
  by_cases hb : b = unwrittenByte
  · subst hb
    rw [if_pos rfl, Memory.cell_forget]
    by_cases h : k = a <;> simp [h]
  · rw [if_neg hb, Memory.cell_store]
    by_cases h : k = a <;> simp [h]

/-- Every listed cell after a byte is listed is that one or was listed. -/
theorem Memory.mem_store {m : Memory} {a : Nat} {b : Byte} {c : Nat × Byte} (h : c ∈ m.store a b) :
    c = (a, b) ∨ c ∈ m := by
  induction m with
  | nil => simpa [Memory.store] using h
  | cons x m ih =>
    obtain ⟨j, d⟩ := x
    by_cases h1 : a < j
    · simpa [Memory.store, h1] using h
    · by_cases h2 : a = j
      · subst h2
        rcases (by simpa [Memory.store] using h : c = (a, b) ∨ c ∈ m) with h | h
        · exact .inl h
        · exact .inr (List.mem_cons_of_mem _ h)
      · rcases (by simpa [Memory.store, h1, h2] using h : c = (j, d) ∨ c ∈ Memory.store m a b) with h | h
        · exact .inr (h ▸ List.mem_cons_self)
        · rcases ih h with h | h
          · exact .inl h
          · exact .inr (List.mem_cons_of_mem _ h)

/-- Every listed cell after one is removed was listed. -/
theorem Memory.mem_forget {m : Memory} {a : Nat} {c : Nat × Byte} (h : c ∈ m.forget a) : c ∈ m :=
  (List.mem_filter.1 h).1

/-- Every listed cell after a write is the written one or was listed. -/
theorem Memory.mem_write {m : Memory} {a : Nat} {b : Byte} {c : Nat × Byte} (h : c ∈ m.write a b) :
    (c = (a, b) ∧ b ≠ unwrittenByte) ∨ c ∈ m := by
  unfold Memory.write at h
  split at h
  · exact .inr (Memory.mem_forget h)
  · rcases Memory.mem_store h with h | h
    · exact .inl ⟨h, by assumption⟩
    · exact .inr h

/-- Listing a byte below 10000H keeps the addresses rising. -/
theorem Memory.sorted_store {m : Memory} {a : Nat} {b : Byte} (ha : a < 65536) (h : Memory.sorted m) :
    Memory.sorted (m.store a b) := by
  induction m with
  | nil => exact ⟨by simp [Memory.store], by simpa [Memory.store] using ha⟩
  | cons x m ih =>
    obtain ⟨j, d⟩ := x
    obtain ⟨hp, hl⟩ := h
    obtain ⟨hx, hm⟩ := List.pairwise_cons.1 hp
    have hj : j < 65536 := hl _ List.mem_cons_self
    have htail : Memory.sorted m := ⟨hm, fun c hc => hl c (List.mem_cons_of_mem _ hc)⟩
    by_cases h1 : a < j
    · simp only [Memory.store, if_pos h1]
      refine ⟨List.pairwise_cons.2 ⟨fun c hc => ?_, hp⟩, fun c hc => ?_⟩
      · rcases List.mem_cons.1 hc with rfl | hc
        · exact h1
        · exact Nat.lt_trans h1 (hx c hc)
      · rcases List.mem_cons.1 hc with rfl | hc
        · exact ha
        · exact hl c hc
    · by_cases h2 : a = j
      · subst h2
        simp only [Memory.store, Nat.lt_irrefl, if_false, if_true]
        refine ⟨List.pairwise_cons.2 ⟨fun c hc => hx c hc, hm⟩, fun c hc => ?_⟩
        rcases List.mem_cons.1 hc with rfl | hc
        · exact ha
        · exact htail.2 c hc
      · simp only [Memory.store, if_neg h1, if_neg h2]
        obtain ⟨hs, hb⟩ := ih htail
        refine ⟨List.pairwise_cons.2 ⟨fun c hc => ?_, hs⟩, fun c hc => ?_⟩
        · rcases Memory.mem_store hc with rfl | hc
          · show j < a
            omega
          · exact hx c hc
        · rcases List.mem_cons.1 hc with rfl | hc
          · exact hj
          · exact hb c hc

/-- A write of a byte below 10000H keeps the canonical form. -/
theorem Memory.wf_write {m : Memory} {a : Nat} {b : Byte} (ha : a < 65536) (h : Memory.wf m) :
    Memory.wf (m.write a b) := by
  obtain ⟨hs, hn⟩ := h
  refine ⟨?_, fun c hc => ?_⟩
  · unfold Memory.write
    split
    · exact ⟨hs.1.filter _, fun c hc => hs.2 c (Memory.mem_forget hc)⟩
    · exact Memory.sorted_store ha hs
  · rcases Memory.mem_write hc with ⟨rfl, hb⟩ | hc
    · exact hb
    · exact hn c hc

/-- What is listed after cells are gathered: a kept cell of a legal address, with a value that is stored. -/
theorem Memory.mem_ofCells {keep : Nat → Bool} {cs : List (Nat × Byte)} {c : Nat × Byte}
    (h : c ∈ Memory.ofCells keep cs) : keep c.1 = true ∧ c.1 < 65536 ∧ c.2 ≠ unwrittenByte := by
  induction cs with
  | nil => simp [Memory.ofCells] at h
  | cons x cs ih =>
    obtain ⟨a, b⟩ := x
    unfold Memory.ofCells at h
    split at h
    · rename_i hk
      rcases Memory.mem_write h with ⟨rfl, hb⟩ | h
      · simp only [Bool.and_eq_true, decide_eq_true_eq] at hk
        exact ⟨hk.1, hk.2, hb⟩
      · exact ih h
    · exact ih h

/-- Gathered cells are in canonical form. -/
theorem Memory.wf_ofCells (keep : Nat → Bool) (cs : List (Nat × Byte)) : Memory.wf (Memory.ofCells keep cs) := by
  induction cs with
  | nil => exact ⟨⟨List.Pairwise.nil, by simp [Memory.ofCells]⟩, by simp [Memory.ofCells]⟩
  | cons x cs ih =>
    obtain ⟨a, b⟩ := x
    unfold Memory.ofCells
    split
    · rename_i hk
      simp only [Bool.and_eq_true, decide_eq_true_eq] at hk
      exact Memory.wf_write hk.2 ih
    · exact ih

/-- Loading a program image keeps the addresses rising. -/
theorem Memory.sorted_load {m : Memory} (a : Nat) (bs : List Byte) (h : Memory.sorted m) :
    Memory.sorted (m.load a bs) := by
  induction bs generalizing m a with
  | nil => exact h
  | cons b bs ih =>
    unfold Memory.load
    split
    · exact ih _ (Memory.sorted_store (by assumption) h)
    · exact h

end Sys2Proof.Machine
end

