-- ==== Sys2Proof/Laws/State.lean ====
section
/-! SUPPORT. Field lemmas: what each update of State does to each field, and what a flag reads after a write of PSW. -/

namespace Sys2Proof.Machine

@[simp] theorem State.setA_cfg (s : State) (v : Word) : (s.setA v).cfg = s.cfg := rfl
@[simp] theorem State.setA_a (s : State) (v : Word) : (s.setA v).a = v := rfl
@[simp] theorem State.setA_psw (s : State) (v : Word) : (s.setA v).psw = s.psw := rfl
@[simp] theorem State.setA_lrb (s : State) (v : Word) : (s.setA v).lrb = s.lrb := rfl
@[simp] theorem State.setA_ssp (s : State) (v : Word) : (s.setA v).ssp = s.ssp := rfl
@[simp] theorem State.setA_pc (s : State) (v : Word) : (s.setA v).pc = s.pc := rfl
@[simp] theorem State.setA_ram (s : State) (v : Word) : (s.setA v).ram = s.ram := rfl
@[simp] theorem State.setA_rom (s : State) (v : Word) : (s.setA v).rom = s.rom := rfl
@[simp] theorem State.setA_env (s : State) (v : Word) : (s.setA v).env = s.env := rfl
@[simp] theorem State.setA_draws (s : State) (v : Word) : (s.setA v).draws = s.draws := rfl

@[simp] theorem State.setAl_cfg (s : State) (v : Byte) : (s.setAl v).cfg = s.cfg := rfl
@[simp] theorem State.setAl_a (s : State) (v : Byte) : (s.setAl v).a = mkWord (hiByte s.a) v := rfl
@[simp] theorem State.setAl_psw (s : State) (v : Byte) : (s.setAl v).psw = s.psw := rfl
@[simp] theorem State.setAl_lrb (s : State) (v : Byte) : (s.setAl v).lrb = s.lrb := rfl
@[simp] theorem State.setAl_ssp (s : State) (v : Byte) : (s.setAl v).ssp = s.ssp := rfl
@[simp] theorem State.setAl_pc (s : State) (v : Byte) : (s.setAl v).pc = s.pc := rfl
@[simp] theorem State.setAl_ram (s : State) (v : Byte) : (s.setAl v).ram = s.ram := rfl
@[simp] theorem State.setAl_rom (s : State) (v : Byte) : (s.setAl v).rom = s.rom := rfl
@[simp] theorem State.setAl_env (s : State) (v : Byte) : (s.setAl v).env = s.env := rfl
@[simp] theorem State.setAl_draws (s : State) (v : Byte) : (s.setAl v).draws = s.draws := rfl

@[simp] theorem State.setPc_cfg (s : State) (v : Word) : (s.setPc v).cfg = s.cfg := rfl
@[simp] theorem State.setPc_a (s : State) (v : Word) : (s.setPc v).a = s.a := rfl
@[simp] theorem State.setPc_psw (s : State) (v : Word) : (s.setPc v).psw = s.psw := rfl
@[simp] theorem State.setPc_lrb (s : State) (v : Word) : (s.setPc v).lrb = s.lrb := rfl
@[simp] theorem State.setPc_ssp (s : State) (v : Word) : (s.setPc v).ssp = s.ssp := rfl
@[simp] theorem State.setPc_pc (s : State) (v : Word) : (s.setPc v).pc = v := rfl
@[simp] theorem State.setPc_ram (s : State) (v : Word) : (s.setPc v).ram = s.ram := rfl
@[simp] theorem State.setPc_rom (s : State) (v : Word) : (s.setPc v).rom = s.rom := rfl
@[simp] theorem State.setPc_env (s : State) (v : Word) : (s.setPc v).env = s.env := rfl
@[simp] theorem State.setPc_draws (s : State) (v : Word) : (s.setPc v).draws = s.draws := rfl

@[simp] theorem State.setFlag_cfg (s : State) (f : Flag) (b : Bool) : (s.setFlag f b).cfg = s.cfg := rfl
@[simp] theorem State.setFlag_a (s : State) (f : Flag) (b : Bool) : (s.setFlag f b).a = s.a := rfl
@[simp] theorem State.setFlag_psw (s : State) (f : Flag) (b : Bool) : (s.setFlag f b).psw = setBit s.psw (f.bit s.cfg) b := rfl
@[simp] theorem State.setFlag_lrb (s : State) (f : Flag) (b : Bool) : (s.setFlag f b).lrb = s.lrb := rfl
@[simp] theorem State.setFlag_ssp (s : State) (f : Flag) (b : Bool) : (s.setFlag f b).ssp = s.ssp := rfl
@[simp] theorem State.setFlag_pc (s : State) (f : Flag) (b : Bool) : (s.setFlag f b).pc = s.pc := rfl
@[simp] theorem State.setFlag_ram (s : State) (f : Flag) (b : Bool) : (s.setFlag f b).ram = s.ram := rfl
@[simp] theorem State.setFlag_rom (s : State) (f : Flag) (b : Bool) : (s.setFlag f b).rom = s.rom := rfl
@[simp] theorem State.setFlag_env (s : State) (f : Flag) (b : Bool) : (s.setFlag f b).env = s.env := rfl
@[simp] theorem State.setFlag_draws (s : State) (f : Flag) (b : Bool) : (s.setFlag f b).draws = s.draws := rfl

@[simp] theorem State.setDd_cfg (s : State) (b : Bool) : (s.setDd b).cfg = s.cfg := rfl
@[simp] theorem State.setDd_a (s : State) (b : Bool) : (s.setDd b).a = s.a := rfl
@[simp] theorem State.setDd_psw (s : State) (b : Bool) : (s.setDd b).psw = setBit s.psw 12 b := rfl
@[simp] theorem State.setDd_lrb (s : State) (b : Bool) : (s.setDd b).lrb = s.lrb := rfl
@[simp] theorem State.setDd_ssp (s : State) (b : Bool) : (s.setDd b).ssp = s.ssp := rfl
@[simp] theorem State.setDd_pc (s : State) (b : Bool) : (s.setDd b).pc = s.pc := rfl
@[simp] theorem State.setDd_ram (s : State) (b : Bool) : (s.setDd b).ram = s.ram := rfl
@[simp] theorem State.setDd_rom (s : State) (b : Bool) : (s.setDd b).rom = s.rom := rfl
@[simp] theorem State.setDd_env (s : State) (b : Bool) : (s.setDd b).env = s.env := rfl
@[simp] theorem State.setDd_draws (s : State) (b : Bool) : (s.setDd b).draws = s.draws := rfl

@[simp] theorem State.setLrb_cfg (s : State) (v : Word) : (s.setLrb v).cfg = s.cfg := rfl
@[simp] theorem State.setLrb_a (s : State) (v : Word) : (s.setLrb v).a = s.a := rfl
@[simp] theorem State.setLrb_psw (s : State) (v : Word) : (s.setLrb v).psw = s.psw := rfl
@[simp] theorem State.setLrb_lrb (s : State) (v : Word) : (s.setLrb v).lrb = v.setWidth 13 := rfl
@[simp] theorem State.setLrb_ssp (s : State) (v : Word) : (s.setLrb v).ssp = s.ssp := rfl
@[simp] theorem State.setLrb_pc (s : State) (v : Word) : (s.setLrb v).pc = s.pc := rfl
@[simp] theorem State.setLrb_ram (s : State) (v : Word) : (s.setLrb v).ram = s.ram := rfl
@[simp] theorem State.setLrb_rom (s : State) (v : Word) : (s.setLrb v).rom = s.rom := rfl
@[simp] theorem State.setLrb_env (s : State) (v : Word) : (s.setLrb v).env = s.env := rfl
@[simp] theorem State.setLrb_draws (s : State) (v : Word) : (s.setLrb v).draws = s.draws := rfl

@[simp] theorem State.draw_cfg (s : State) : s.draw.2.cfg = s.cfg := rfl
@[simp] theorem State.draw_a (s : State) : s.draw.2.a = s.a := rfl
@[simp] theorem State.draw_psw (s : State) : s.draw.2.psw = s.psw := rfl
@[simp] theorem State.draw_lrb (s : State) : s.draw.2.lrb = s.lrb := rfl
@[simp] theorem State.draw_ssp (s : State) : s.draw.2.ssp = s.ssp := rfl
@[simp] theorem State.draw_pc (s : State) : s.draw.2.pc = s.pc := rfl
@[simp] theorem State.draw_ram (s : State) : s.draw.2.ram = s.ram := rfl
@[simp] theorem State.draw_rom (s : State) : s.draw.2.rom = s.rom := rfl
@[simp] theorem State.draw_env (s : State) : s.draw.2.env = s.env := rfl
@[simp] theorem State.draw_draws (s : State) : s.draw.2.draws = s.draws + 1 := rfl

@[simp] theorem State.freeFlag_cfg (s : State) (f : Flag) : (s.freeFlag f).cfg = s.cfg := rfl
@[simp] theorem State.freeFlag_a (s : State) (f : Flag) : (s.freeFlag f).a = s.a := rfl
@[simp] theorem State.freeFlag_psw (s : State) (f : Flag) : (s.freeFlag f).psw = setBit s.psw (f.bit s.cfg) ((Config.freeWord s.draws).getLsbD 0) := rfl
@[simp] theorem State.freeFlag_lrb (s : State) (f : Flag) : (s.freeFlag f).lrb = s.lrb := rfl
@[simp] theorem State.freeFlag_ssp (s : State) (f : Flag) : (s.freeFlag f).ssp = s.ssp := rfl
@[simp] theorem State.freeFlag_pc (s : State) (f : Flag) : (s.freeFlag f).pc = s.pc := rfl
@[simp] theorem State.freeFlag_ram (s : State) (f : Flag) : (s.freeFlag f).ram = s.ram := rfl
@[simp] theorem State.freeFlag_rom (s : State) (f : Flag) : (s.freeFlag f).rom = s.rom := rfl
@[simp] theorem State.freeFlag_env (s : State) (f : Flag) : (s.freeFlag f).env = s.env := rfl
@[simp] theorem State.freeFlag_draws (s : State) (f : Flag) : (s.freeFlag f).draws = s.draws + 1 := rfl

@[simp] theorem State.draw_fst (s : State) : s.draw.1 = Config.freeWord s.draws := rfl

@[simp] theorem State.setReg_cfg (s : State) (r : CpuReg) (v : Word) : (s.setReg r v).cfg = s.cfg := by cases r <;> rfl
@[simp] theorem State.setReg_pc (s : State) (r : CpuReg) (v : Word) : (s.setReg r v).pc = s.pc := by cases r <;> rfl
@[simp] theorem State.setReg_ram (s : State) (r : CpuReg) (v : Word) : (s.setReg r v).ram = s.ram := by cases r <;> rfl
@[simp] theorem State.setReg_rom (s : State) (r : CpuReg) (v : Word) : (s.setReg r v).rom = s.rom := by cases r <;> rfl
@[simp] theorem State.setReg_env (s : State) (r : CpuReg) (v : Word) : (s.setReg r v).env = s.env := by cases r <;> rfl
@[simp] theorem State.setReg_draws (s : State) (r : CpuReg) (v : Word) : (s.setReg r v).draws = s.draws := by cases r <;> rfl
@[simp] theorem State.setFlag?_cfg (s : State) (f : Flag) (b : Option Bool) : (s.setFlag? f b).cfg = s.cfg := by
  cases b <;> rfl
@[simp] theorem State.setFlag?_a (s : State) (f : Flag) (b : Option Bool) : (s.setFlag? f b).a = s.a := by
  cases b <;> rfl
@[simp] theorem State.setFlag?_lrb (s : State) (f : Flag) (b : Option Bool) : (s.setFlag? f b).lrb = s.lrb := by
  cases b <;> rfl
@[simp] theorem State.setFlag?_ssp (s : State) (f : Flag) (b : Option Bool) : (s.setFlag? f b).ssp = s.ssp := by
  cases b <;> rfl
@[simp] theorem State.setFlag?_pc (s : State) (f : Flag) (b : Option Bool) : (s.setFlag? f b).pc = s.pc := by
  cases b <;> rfl
@[simp] theorem State.setFlag?_ram (s : State) (f : Flag) (b : Option Bool) : (s.setFlag? f b).ram = s.ram := by
  cases b <;> rfl
@[simp] theorem State.setFlag?_rom (s : State) (f : Flag) (b : Option Bool) : (s.setFlag? f b).rom = s.rom := by
  cases b <;> rfl
@[simp] theorem State.setFlag?_env (s : State) (f : Flag) (b : Option Bool) : (s.setFlag? f b).env = s.env := by
  cases b <;> rfl
@[simp] theorem State.setFlag?_draws (s : State) (f : Flag) (b : Option Bool) : (s.setFlag? f b).draws = s.draws := by
  cases b <;> rfl

@[simp] theorem State.setFlag?_none (s : State) (f : Flag) : s.setFlag? f none = s := rfl
@[simp] theorem State.setFlag?_some (s : State) (f : Flag) (b : Bool) : s.setFlag? f (some b) = s.setFlag f b := rfl
@[simp] theorem State.reg_ssp (s : State) : s.reg .ssp = s.ssp := rfl
@[simp] theorem State.reg_lrb (s : State) : s.reg .lrb = s.lrbWord := rfl
@[simp] theorem State.reg_psw (s : State) : s.reg .psw = s.psw := rfl
@[simp] theorem State.reg_acc (s : State) : s.reg .acc = s.a := rfl

/-- One bit of a value with one bit replaced. -/
@[simp] theorem getLsbD_setBit {w : Nat} (v : BitVec w) (i k : Nat) (b : Bool) :
    (setBit v i b).getLsbD k = if k = i then (b && decide (i < w)) else v.getLsbD k := by
  unfold setBit
  have hv : v.getLsbD k = true → k < w := fun hv => BitVec.lt_of_getLsbD hv
  by_cases h : k = i
  · subst h
    cases b
    · simp
    · simpa using hv
  · cases b
    · simpa [h, Ne.symm h] using hv
    · simp [h, Ne.symm h]

/-- The same for an element within the width. -/
@[simp] theorem getElem_setBit {w : Nat} (v : BitVec w) (i k : Nat) (b : Bool) (hk : k < w) :
    (setBit v i b)[k] = if k = i then b else v[k] := by
  rw [← BitVec.getLsbD_eq_getElem, getLsbD_setBit]
  by_cases h : k = i
  · subst h; simp [hk]
  · simp [h, BitVec.getLsbD_eq_getElem hk]

/-- A flag's bit is a bit of PSW. -/
theorem Flag.bit_lt (c : Config) (f : Flag) : f.bit c < 16 := by cases f <;> exact Fin.isLt _

/-- A flag reads as it was last written. -/
@[simp] theorem State.flag_setFlag_self (s : State) (f : Flag) (b : Bool) : (s.setFlag f b).flag f = b := by
  simp [State.flag, Flag.bit_lt]

/-- A write of one flag leaves a flag at another bit as it was. -/
theorem State.flag_setFlag_ne (s : State) (f g : Flag) (b : Bool) (h : g.bit s.cfg ≠ f.bit s.cfg) :
    (s.setFlag f b).flag g = s.flag g := by
  simp [State.flag, h]

/-- DD reads as it was last written. -/
@[simp] theorem State.dd_setDd (s : State) (b : Bool) : (s.setDd b).dd = b := by
  simp [State.dd]

/-- A write of a flag that is not at bit 12 leaves DD as it was. -/
theorem State.dd_setFlag (s : State) (f : Flag) (b : Bool) (h : f.bit s.cfg ≠ 12) : (s.setFlag f b).dd = s.dd := by
  simp [State.dd]; intro h'; exact absurd h'.symm h

@[simp] theorem State.dd_setA (s : State) (v : Word) : (s.setA v).dd = s.dd := rfl
@[simp] theorem State.dd_setAl (s : State) (v : Byte) : (s.setAl v).dd = s.dd := rfl
@[simp] theorem State.dd_setPc (s : State) (v : Word) : (s.setPc v).dd = s.dd := rfl
@[simp] theorem State.flag_setA (s : State) (v : Word) (f : Flag) : (s.setA v).flag f = s.flag f := rfl
@[simp] theorem State.flag_setAl (s : State) (v : Byte) (f : Flag) : (s.setAl v).flag f = s.flag f := rfl
@[simp] theorem State.flag_setPc (s : State) (v : Word) (f : Flag) : (s.setPc v).flag f = s.flag f := rfl
@[simp] theorem State.flag_setLrb (s : State) (v : Word) (f : Flag) : (s.setLrb v).flag f = s.flag f := rfl
@[simp] theorem State.flag_draw (s : State) (f : Flag) : s.draw.2.flag f = s.flag f := rfl

/-- A word is its two bytes (spec/20_memory.md R64). -/
@[simp] theorem mkWord_bytes (v : Word) : mkWord (hiByte v) (loByte v) = v := by
  unfold mkWord hiByte loByte
  ext i hi
  simp only [BitVec.getElem_append, BitVec.getElem_extractLsb']
  by_cases h : i < 8
  · simp [h, BitVec.getLsbD_eq_getElem hi]
  · have h8 : 8 + (i - 8) = i := by omega
    simp [h, h8, BitVec.getLsbD_eq_getElem hi]

@[simp] theorem loByte_mkWord (h l : Byte) : loByte (mkWord h l) = l := by
  unfold loByte mkWord
  ext i hi
  rw [BitVec.getElem_extractLsb', BitVec.getLsbD_append]
  simp [hi]

@[simp] theorem hiByte_mkWord (h l : Byte) : hiByte (mkWord h l) = h := by
  unfold hiByte mkWord
  ext i hi
  rw [BitVec.getElem_extractLsb', BitVec.getLsbD_append]
  simp [BitVec.getLsbD_eq_getElem hi]

/-- AL reads as it was last written. -/
@[simp] theorem State.al_setAl (s : State) (v : Byte) : (s.setAl v).al = v := by simp [State.al]

/-- A write of AL keeps AH (spec/10_state.md R21). -/
@[simp] theorem State.ah_setAl (s : State) (v : Byte) : hiByte (s.setAl v).a = hiByte s.a := by simp

theorem low_bits : ∀ j : Fin 16, (0x1FFF#16)[j.1] = decide (j.1 < 13) := by decide

/-- LRB keeps bits 12..0 of what is written (R35). -/
@[simp] theorem State.lrbWord_setLrb (s : State) (v : Word) : (s.setLrb v).lrbWord = v &&& 0x1FFF#16 := by
  simp only [State.lrbWord, State.setLrb_lrb]
  ext i hi
  have : (0x1FFF#16)[i] = decide (i < 13) := low_bits ⟨i, hi⟩
  rw [BitVec.getElem_and, this]
  simp only [BitVec.getElem_setWidth, BitVec.getLsbD_setWidth]
  rw [BitVec.getLsbD_eq_getElem hi]
  exact Bool.and_comm _ _

/-- Bits 15..13 of LRB read 0 (R35). -/
theorem State.lrbWord_lt (s : State) : s.lrbWord.toNat < 0x2000 := by
  simp only [State.lrbWord, BitVec.toNat_setWidth]
  exact Nat.lt_of_le_of_lt (Nat.mod_le _ _) s.lrb.isLt

/-- A word of thirteen bits is what LRB reads. -/
theorem State.setLrb_lrbWord (s : State) : s.setLrb s.lrbWord = s := by
  have : s.lrbWord.setWidth 13 = s.lrb := by simp [State.lrbWord]
  simp [State.setLrb, this]

end Sys2Proof.Machine
end

