-- ==== Sys2Proof/Laws/Encoding.lean ====
section
/-! SUPPORT. Laws of the encoding: operand prefixes are read back whole, whatever follows; the bytes fetched at PC. -/

namespace Sys2Proof

theorem bitVec2_cases : ∀ r : BitVec 2, r = 0 ∨ r = 1 ∨ r = 2 ∨ r = 3 := by decide

theorem bitVec3_cases : ∀ r : BitVec 3, r = 0 ∨ r = 1 ∨ r = 2 ∨ r = 3 ∨ r = 4 ∨ r = 5 ∨ r = 6 ∨ r = 7 := by decide

@[simp] theorem wordBytes_length (n : Word) : (wordBytes n).length = 2 := rfl

@[simp] theorem wordBytes_mkWord (hi lo : Byte) : wordBytes (mkWord hi lo) = [lo, hi] := by simp [wordBytes]

/-- A word prefix is read back and its suffix decoded (spec/30_encoding.md R107, R124). -/
theorem decode_wordPrefix (ops : Opcodes) (dd : Bool) (o : WObj) (bs : List Byte) :
    decode ops dd (o.prefixBytes ++ bs) = decodeWordSuffix o bs := by
  cases o with
  | er r => rcases bitVec2_cases r with h | h | h | h <;> subst h <;> cases dd <;> rfl
  | x1Ind n =>
    conv => rhs; rw [← Machine.mkWord_bytes n]
    cases dd <;> rfl
  | x2Ind n =>
    conv => rhs; rw [← Machine.mkWord_bytes n]
    cases dd <;> rfl
  | _ => cases dd <;> rfl

/-- A byte prefix is read back and its suffix decoded (R107, R124). -/
theorem decode_bytePrefix (ops : Opcodes) (dd : Bool) (o : BObj) (bs : List Byte) :
    decode ops dd (o.prefixBytes ++ bs) = decodeByteSuffix o bs := by
  cases o with
  | r r => rcases bitVec3_cases r with h | h | h | h | h | h | h | h <;> subst h <;> cases dd <;> rfl
  | x1Ind n =>
    conv => rhs; rw [← Machine.mkWord_bytes n]
    cases dd <;> rfl
  | x2Ind n =>
    conv => rhs; rw [← Machine.mkWord_bytes n]
    cases dd <;> rfl
  | _ => cases dd <;> rfl

@[simp] theorem WObj.prefixBytes_length (o : WObj) : o.prefixBytes.length = o.prefixLen := by cases o <;> rfl

@[simp] theorem BObj.prefixBytes_length (o : BObj) : o.prefixBytes.length = o.prefixLen := by cases o <;> rfl

/-- A word prefix takes 1 to 3 bytes (R107). -/
theorem WObj.prefixLen_bounds (o : WObj) : 1 ≤ o.prefixLen ∧ o.prefixLen ≤ 3 := by
  cases o <;> simp [prefixLen]

/-- A byte prefix takes 1 to 3 bytes (R107). -/
theorem BObj.prefixLen_bounds (o : BObj) : 1 ≤ o.prefixLen ∧ o.prefixLen ≤ 3 := by
  cases o <;> simp [prefixLen]

/-- What admitted `OP_*` settings give: each is a first byte no page uses, and no two are one byte (decision D22). -/
theorem Opcodes.legal_cases {ops : Opcodes} (h : ops.legal = true) :
    (∀ c ∈ ops.codes, isFree c = true) ∧
    [ops.scal, ops.rolA, ops.srlA, ops.pushsA, ops.popsA, ops.popsLrb, ops.incLrb, ops.decLrb].Pairwise
      (fun a b => ∀ x, a = some x → ∀ y, b = some y → x ≠ y) := by
  simp only [Opcodes.legal, Bool.and_eq_true, decide_eq_true_eq, List.all_eq_true] at h
  exact ⟨h.1, List.pairwise_filterMap.1 h.2⟩

/-- The bytes of an optional code byte and fixed operands are one more than the operands. -/
theorem length_of_code {c : Option Byte} {xs bs : List Byte} (h : c.map (fun b => b :: xs) = some bs) :
    bs.length = xs.length + 1 := by
  cases c with
  | none => cases h
  | some b => cases h; rfl

end Sys2Proof

namespace Sys2Proof.Machine

theorem fetchBytes_length (rom : Memory) (n a : Nat) : (fetchBytes rom a n).length ≤ n := by
  induction n generalizing a with
  | zero => exact Nat.le_refl 0
  | succ n ih =>
    unfold fetchBytes
    split
    · cases rom.cell a with
      | none => exact Nat.zero_le _
      | some b => exact Nat.succ_le_succ (ih (a + 1))
    · exact Nat.zero_le _

/-- A longer fetch begins with the bytes of a shorter one that found all of its own. -/
theorem fetchBytes_append (rom : Memory) (n k a : Nat) (h : (fetchBytes rom a n).length = n) :
    fetchBytes rom a (n + k) = fetchBytes rom a n ++ fetchBytes rom (a + n) k := by
  induction n generalizing a with
  | zero => simp [fetchBytes]
  | succ n ih =>
    have step : ∀ j, fetchBytes rom a (j + 1) = if a < 65536 then
        match rom.cell a with
        | some b => b :: fetchBytes rom (a + 1) j
        | none => []
      else [] := fun _ => rfl
    rw [show n + 1 + k = n + k + 1 by omega, step (n + k), step n]
    rw [step n] at h
    split
    · next ha =>
      rw [if_pos ha] at h
      cases hc : rom.cell a with
      | none => rw [hc] at h; cases h
      | some b =>
        rw [hc] at h
        have h' : (fetchBytes rom (a + 1) n).length = n := Nat.succ.inj h
        show b :: fetchBytes rom (a + 1) (n + k) = b :: (fetchBytes rom (a + 1) n ++ fetchBytes rom (a + (n + 1)) k)
        rw [ih (a + 1) h', show a + 1 + n = a + (n + 1) by omega]
    · next ha => rw [if_neg ha] at h; cases h

end Sys2Proof.Machine
end

