-- ==== Sys2Proof/Laws/Ops.lean ====
section
/-! SUPPORT. One law per shared operation: what it leaves unchanged (Changes), what it writes, and that it goes through
where its operands can be accessed. -/

namespace Sys2Proof.Machine

/-! The frame. -/

theorem Touch.or_eq_false {f g : Touch} {r : CpuReg} {k : Nat} :
    f.or g r k = false ↔ f r k = false ∧ g r k = false := by simp [Touch.or]

/-- Nothing changed. -/
theorem Changes.refl (s : State) (may : Touch) (st : List Word) : Changes s s may st :=
  ⟨rfl, rfl, rfl, fun _ _ _ => rfl, fun _ _ _ => rfl⟩

/-- Two changes one after the other, within what both may. -/
theorem Changes.trans {s t u : State} {may : Touch} {st : List Word} (h1 : Changes s t may st)
    (h2 : Changes t u may st) : Changes s u may st where
  cfg := h2.cfg.trans h1.cfg
  rom := h2.rom.trans h1.rom
  env := h2.env.trans h1.env
  regs r k h := (h2.regs r k h).trans (h1.regs r k h)
  bytes ea h hr := (h2.bytes ea h (by rw [h1.cfg]; exact hr)).trans (h1.bytes ea h hr)

/-- A smaller frame implies a larger one. -/
theorem Changes.mono {s t : State} {may may' : Touch} {st st' : List Word} (h : Changes s t may st)
    (hm : ∀ r k, may' r k = false → may r k = false) (hs : ∀ ea, ea ∈ st → ea ∈ st') : Changes s t may' st' where
  cfg := h.cfg
  rom := h.rom
  env := h.env
  regs r k hk := h.regs r k (hm r k hk)
  bytes ea he hr := h.bytes ea (fun hx => he (hs ea hx)) hr

/-- A byte that no register shows is read from the parameters and data memory alone. -/
theorem readByte_congr {s t : State} {ea : Word} (hc : t.cfg = s.cfg) (hm : t.ram = s.ram)
    (hr : regAt s.cfg ea = none) : readByte t ea = readByte s ea := by
  unfold readByte place
  rw [hc, hm, hr]
  cases regionAt s.cfg.regions ea.toNat with
  | none => rfl
  | some k => cases k <;> rfl

/-- An update that leaves the parameters, both memories and the events alone changes only registers. -/
theorem Changes.ofRegs {s t : State} {may : Touch} (hc : t.cfg = s.cfg) (hm : t.ram = s.ram) (ho : t.rom = s.rom)
    (hs : t.env = s.env) (hr : ∀ r k, may r k = false → (t.reg r).getLsbD k = (s.reg r).getLsbD k)
    (st : List Word) : Changes s t may st where
  cfg := hc
  rom := ho
  env := hs
  regs := hr
  bytes _ _ h := readByte_congr hc hm h

theorem changes_setPc (s : State) (v : Word) (may : Touch) (st : List Word) : Changes s (s.setPc v) may st :=
  Changes.ofRegs (s := s) (t := s.setPc v) rfl rfl rfl rfl (fun r _ _ => by cases r <;> rfl) st

theorem changes_setA (s : State) (v : Word) (st : List Word) : Changes s (s.setA v) (Touch.all .acc) st :=
  Changes.ofRegs (s := s) (t := s.setA v) rfl rfl rfl rfl (fun r k h => by cases r <;> first | rfl | (simp [Touch.all] at h)) st

/-- The other half of a word whose one half was replaced. -/
theorem getLsbD_withByte (v : Word) (high : Bool) (b : Byte) (k : Nat) (h : (decide (8 ≤ k) == high) = false) :
    (withByte v high b).getLsbD k = v.getLsbD k := by
  by_cases hk : 8 ≤ k
  · have hh : high = false := by cases high <;> simp_all
    subst hh
    show (mkWord (hiByte v) b).getLsbD k = _
    unfold mkWord hiByte
    rw [BitVec.getLsbD_append, if_neg (Nat.not_lt.2 hk), BitVec.getLsbD_extractLsb', show 8 + (k - 8) = k by omega]
    by_cases h16 : k < 16
    · simp [show k - 8 < 8 by omega]
    · rw [BitVec.getLsbD_of_ge v k (by omega)]; simp
  · have hh : high = true := by
      cases high
      · simp [hk] at h
      · rfl
    subst hh
    show (mkWord b (loByte v)).getLsbD k = _
    unfold mkWord loByte
    rw [BitVec.getLsbD_append, if_pos (Nat.lt_of_not_le hk), BitVec.getLsbD_extractLsb']
    simp [Nat.lt_of_not_le hk]

theorem State.setAl_eq (s : State) (v : Byte) : s.setAl v = s.setA (withByte s.a false v) := rfl

theorem changes_setAl (s : State) (v : Byte) (st : List Word) : Changes s (s.setAl v) (Touch.half .acc false) st :=
  Changes.ofRegs (s := s) (t := s.setAl v) rfl rfl rfl rfl (fun r k h => by
    cases r <;> first | rfl | skip
    exact getLsbD_withByte s.a false v k (by simpa [Touch.half] using h)) st

theorem changes_setFlag (s : State) (f : Flag) (b : Bool) (st : List Word) :
    Changes s (s.setFlag f b) (Touch.flags s.cfg [f]) st :=
  Changes.ofRegs (s := s) (t := s.setFlag f b) rfl rfl rfl rfl (fun r k h => by
    cases r <;> first | rfl | skip
    have hk : k ≠ f.bit s.cfg := by simpa [Touch.flags] using h
    simp [hk]) st

theorem changes_setDd (s : State) (b : Bool) (st : List Word) : Changes s (s.setDd b) Touch.dd st :=
  Changes.ofRegs (s := s) (t := s.setDd b) rfl rfl rfl rfl (fun r k h => by
    cases r <;> first | rfl | skip
    have hk : k ≠ 12 := by simpa [Touch.dd] using h
    simp [hk]) st

theorem changes_setLrb (s : State) (v : Word) (st : List Word) : Changes s (s.setLrb v) (Touch.all .lrb) st :=
  Changes.ofRegs (s := s) (t := s.setLrb v) rfl rfl rfl rfl (fun r k h => by cases r <;> first | rfl | (simp [Touch.all] at h)) st

theorem changes_draw (s : State) (may : Touch) (st : List Word) : Changes s s.draw.2 may st :=
  Changes.ofRegs (s := s) (t := s.draw.2) rfl rfl rfl rfl (fun r _ _ => by cases r <;> rfl) st

theorem changes_freeFlag (s : State) (f : Flag) (st : List Word) :
    Changes s (s.freeFlag f) (Touch.flags s.cfg [f]) st :=
  (changes_draw s _ st).trans (changes_setFlag s.draw.2 f _ st)

theorem changes_setFlag? (s : State) (f : Flag) (b : Option Bool) (st : List Word) :
    Changes s (s.setFlag? f b) (Touch.flags s.cfg [f]) st := by
  cases b with
  | none => exact Changes.refl _ _ _
  | some b => exact changes_setFlag s f b st

theorem changes_setReg (s : State) (r : CpuReg) (v : Word) (st : List Word) :
    Changes s (s.setReg r v) (Touch.all r) st :=
  Changes.ofRegs (by cases r <;> rfl) (by cases r <;> rfl) (by cases r <;> rfl) (by cases r <;> rfl)
    (fun q k h => by
      have hq : q ≠ r := by simpa [Touch.all] using h
      cases q <;> cases r <;> first | rfl | exact absurd rfl hq) st

/-! Registers at data addresses. -/

/-- What a CPU register can hold (spec/10_state.md R35). -/
def CpuReg.mask : CpuReg → Word
  | .lrb => 0x1FFF#16
  | _ => 0xFFFF#16

/-- A CPU register reads what was written to it, as far as it has bits. -/
theorem reg_setReg_self (s : State) (r : CpuReg) (v : Word) : (s.setReg r v).reg r = v &&& r.mask := by
  cases r
  · exact (BitVec.and_allOnes (x := v)).symm
  · exact State.lrbWord_setLrb s v
  · exact (BitVec.and_allOnes (x := v)).symm
  · exact (BitVec.and_allOnes (x := v)).symm

/-- A write of one CPU register leaves the others. -/
theorem reg_setReg_ne (s : State) {r q : CpuReg} (v : Word) (h : q ≠ r) : (s.setReg r v).reg q = s.reg q := by
  cases q <;> cases r <;> first | rfl | exact absurd rfl h

/-- Bits 15..13 of LRB are 0, so its mask changes nothing it holds. -/
theorem reg_and_mask (s : State) (r : CpuReg) : s.reg r &&& r.mask = s.reg r := by
  cases r
  · exact BitVec.and_allOnes
  · show s.lrbWord &&& 0x1FFF#16 = s.lrbWord
    rw [← State.lrbWord_setLrb, State.setLrb_lrbWord]
  · exact BitVec.and_allOnes
  · exact BitVec.and_allOnes

@[simp] theorem evenAddr_evenAddr (ea : Word) : evenAddr (evenAddr ea) = evenAddr ea := by
  simp [evenAddr, BitVec.and_assoc]

theorem even_mask : ∀ j : Fin 16, (0xFFFE#16)[j.1] = decide (1 ≤ j.1) := by decide

theorem evenAddr_toNat (ea : Word) : (evenAddr ea).toNat = 2 * (ea.toNat / 2) := by
  unfold evenAddr
  have h : ea &&& 0xFFFE#16 = (ea >>> 1) <<< 1 := by
    ext i hi
    rw [BitVec.getElem_and, BitVec.getElem_shiftLeft]
    have hm : (0xFFFE#16)[i] = decide (1 ≤ i) := even_mask ⟨i, hi⟩
    rw [hm]
    by_cases h0 : i = 0
    · subst h0; simp
    · have h1 : 1 ≤ i := by omega
      have h2 : 1 + (i - 1) = i := by omega
      simp [h1, h0, BitVec.getElem_ushiftRight, h2, BitVec.getLsbD_eq_getElem hi]
  rw [h, BitVec.toNat_shiftLeft, BitVec.toNat_ushiftRight, Nat.shiftLeft_eq, Nat.shiftRight_eq_div_pow]
  have := ea.isLt
  rw [Nat.mod_eq_of_lt (by omega)]
  omega

/-- The upper byte's address of an even word. -/
theorem evenAddr_succ_toNat (ea : Word) : (evenAddr ea + 1).toNat = 2 * (ea.toNat / 2) + 1 := by
  have := ea.isLt
  rw [BitVec.toNat_add, evenAddr_toNat]
  show (_ + 1) % 65536 = _
  omega

@[simp] theorem evenAddr_succ (ea : Word) : evenAddr (evenAddr ea + 1) = evenAddr ea := by
  apply BitVec.eq_of_toNat_eq
  rw [evenAddr_toNat, evenAddr_succ_toNat, evenAddr_toNat]
  omega

/-- Bit 0 of an address is whether it is odd. -/
theorem getLsbD_zero_eq (ea : Word) : ea.getLsbD 0 = decide (ea.toNat % 2 = 1) := by
  rw [BitVec.getLsbD, Nat.testBit_zero]

@[simp] theorem evenAddr_bit (ea : Word) : (evenAddr ea).getLsbD 0 = false := by
  rw [getLsbD_zero_eq, evenAddr_toNat]
  simp

@[simp] theorem evenAddr_succ_bit (ea : Word) : (evenAddr ea + 1).getLsbD 0 = true := by
  rw [getLsbD_zero_eq, evenAddr_succ_toNat]
  simp

/-- The two bytes of a word are at two addresses. -/
theorem evenAddr_ne_succ (ea : Word) : evenAddr ea ≠ evenAddr ea + 1 := by
  intro h
  have := congrArg BitVec.toNat h
  rw [evenAddr_toNat, evenAddr_succ_toNat] at this
  omega

/-- An address is the even one of its word or the next. -/
theorem eq_evenAddr_or (ea : Word) :
    (ea.getLsbD 0 = false ∧ ea = evenAddr ea) ∨ (ea.getLsbD 0 = true ∧ ea = evenAddr ea + 1) := by
  rw [getLsbD_zero_eq]
  by_cases h : ea.toNat % 2 = 1
  · refine .inr ⟨by simp [h], BitVec.eq_of_toNat_eq ?_⟩
    rw [evenAddr_succ_toNat]; omega
  · refine .inl ⟨by simp [h], BitVec.eq_of_toNat_eq ?_⟩
    rw [evenAddr_toNat]; omega

theorem regAt_congr {c : Config} {a b : Word} (h : evenAddr a = evenAddr b) : regAt c a = regAt c b := by
  unfold regAt; rw [h]

@[simp] theorem regAt_even (c : Config) (ea : Word) : regAt c (evenAddr ea) = regAt c ea :=
  regAt_congr (evenAddr_evenAddr ea)

@[simp] theorem regAt_succ (c : Config) (ea : Word) : regAt c (evenAddr ea + 1) = regAt c ea :=
  regAt_congr (evenAddr_succ ea)

/-! Bytes. -/

/-- What a place of a register reads. -/
theorem readByte_reg {s : State} {ea : Word} {r : CpuReg} (h : regAt s.cfg ea = some r) :
    readByte s ea = .ok (byteOf (s.reg r) (ea.getLsbD 0)) := by simp [readByte, place, h]

/-- A register place can be accessed. -/
theorem accessible_reg {c : Config} {ea : Word} {r : CpuReg} (h : regAt c ea = some r) : accessible c ea = true := by
  simp [accessible, place, h]

/-- The half of a value decides a byte of it. -/
theorem byteOf_congr {v w : Word} {high : Bool}
    (h : ∀ k, (decide (8 ≤ k) == high) = true → v.getLsbD k = w.getLsbD k) : byteOf v high = byteOf w high := by
  apply BitVec.eq_of_getLsbD_eq
  intro i hi
  cases high
  · show (loByte v).getLsbD i = (loByte w).getLsbD i
    unfold loByte
    rw [BitVec.getLsbD_extractLsb', BitVec.getLsbD_extractLsb', h (0 + i) (by simp; omega)]
  · show (hiByte v).getLsbD i = (hiByte w).getLsbD i
    unfold hiByte
    rw [BitVec.getLsbD_extractLsb', BitVec.getLsbD_extractLsb', h (8 + i) (by simp)]

@[simp] theorem byteOf_withByte (v : Word) (high : Bool) (b : Byte) : byteOf (withByte v high b) high = b := by
  cases high <;> simp [byteOf, withByte]

theorem loByte_and (v w : Word) : loByte (v &&& w) = loByte v &&& loByte w := by simp [loByte, BitVec.extractLsb'_and]

theorem hiByte_and (v w : Word) : hiByte (v &&& w) = hiByte v &&& hiByte w := by simp [hiByte, BitVec.extractLsb'_and]

/-- One byte of what a register can hold. -/
def CpuReg.byteMask (r : CpuReg) (high : Bool) : Byte := byteOf r.mask high

theorem byteOf_and (v w : Word) (high : Bool) : byteOf (v &&& w) high = byteOf v high &&& byteOf w high := by
  cases high
  · exact loByte_and v w
  · exact hiByte_and v w

theorem byteOf_reg_setReg (s : State) (r : CpuReg) (high : Bool) (v : Byte) :
    byteOf ((s.setReg r (withByte (s.reg r) high v)).reg r) high = v &&& r.byteMask high := by
  rw [reg_setReg_self, byteOf_and, byteOf_withByte]; rfl

/-- The other half of a register one of whose bytes was written keeps its bits. -/
theorem reg_setReg_withByte (s : State) (r : CpuReg) (high : Bool) (v : Byte) (k : Nat)
    (h : (decide (8 ≤ k) == high) = false) :
    ((s.setReg r (withByte (s.reg r) high v)).reg r).getLsbD k = (s.reg r).getLsbD k := by
  rw [reg_setReg_self, BitVec.getLsbD_and, getLsbD_withByte _ _ _ _ h, ← BitVec.getLsbD_and, reg_and_mask]

/-- Writing one byte of a register changes that byte alone. -/
theorem changes_setReg_half (s : State) (r : CpuReg) (high : Bool) (v : Byte) (st : List Word) :
    Changes s (s.setReg r (withByte (s.reg r) high v)) (Touch.half r high) st :=
  Changes.ofRegs (s.setReg_cfg _ _) (s.setReg_ram _ _) (s.setReg_rom _ _) (s.setReg_env _ _) (fun q k h => by
    by_cases hq : q = r
    · subst hq
      exact reg_setReg_withByte s q high v k (by simpa [Touch.half] using h)
    · rw [reg_setReg_ne s _ hq]) st

/-- What a byte write did: `t` is `s` with `v` at the location, and nothing else changed. -/
structure WroteB (s t : State) (l : BLoc) (v : Byte) : Prop where
  changes : Changes s t (l.touches s.cfg) l.bytes
  pc : t.pc = s.pc
  draws : t.draws = s.draws
  value : readB t l = .ok (v &&& l.mask s.cfg)

/-- Everything a byte write to data memory can do. -/
theorem writeByte_wrote {s t : State} {ea : Word} {v : Byte} (h : writeByte s ea v = .ok t) :
    WroteB s t (.mem ea) v := by
  unfold writeByte place at h
  cases hr : regAt s.cfg ea with
  | some r =>
    rw [hr] at h
    obtain rfl := (Except.ok.inj h).symm
    refine ⟨?_, s.setReg_pc _ _, s.setReg_draws _ _, ?_⟩
    · simp only [BLoc.touches, hr]
      exact changes_setReg_half s r _ v _
    · have hr' : regAt (s.setReg r (withByte (s.reg r) (ea.getLsbD 0) v)).cfg ea = some r := by
        rw [State.setReg_cfg]; exact hr
      show readByte _ ea = _
      rw [readByte_reg hr', byteOf_reg_setReg]
      simp only [BLoc.mask, hr]
      cases r <;> cases ea.getLsbD 0 <;> rfl
  | none =>
    rw [hr] at h
    cases hk : regionAt s.cfg.regions ea.toNat with
    | none => rw [hk] at h; cases h
    | some k =>
      rw [hk] at h
      cases k with
      | sfr => cases h
      | ram =>
        obtain rfl := (Except.ok.inj h).symm
        refine ⟨⟨rfl, rfl, rfl, fun _ _ _ => rfl, fun e he hn => ?_⟩, rfl, rfl, ?_⟩
        · have hne : e.toNat ≠ ea.toNat := fun hx => he (by simp [BLoc.bytes, BitVec.eq_of_toNat_eq hx])
          simp only [readByte, place, hn]
          cases hk' : regionAt s.cfg.regions e.toNat with
          | none => rfl
          | some k => cases k <;> simp [Memory.read_write, hne]
        · show readByte _ ea = _
          simp [readByte, place, hr, hk, Memory.read_write, BLoc.mask]
          exact (BitVec.and_allOnes (x := v)).symm

/-- A byte that can be accessed can be read. -/
theorem readByte_total {s : State} {ea : Word} (h : accessible s.cfg ea = true) : ∃ b, readByte s ea = .ok b := by
  unfold accessible at h
  unfold readByte
  cases hp : place s.cfg ea <;> rw [hp] at h <;> simp at h
  · exact ⟨_, rfl⟩
  · exact ⟨_, rfl⟩

/-- A byte that can be accessed can be written. -/
theorem writeByte_total {s : State} {ea : Word} (v : Byte) (h : accessible s.cfg ea = true) :
    ∃ t, writeByte s ea v = .ok t := by
  unfold accessible at h
  unfold writeByte
  cases hp : place s.cfg ea <;> rw [hp] at h <;> simp at h
  · exact ⟨_, rfl⟩
  · exact ⟨_, rfl⟩

/-- A byte that was read can be accessed. -/
theorem accessible_of_readByte {s : State} {ea : Word} {b : Byte} (h : readByte s ea = .ok b) :
    accessible s.cfg ea = true := by
  unfold accessible
  unfold readByte at h
  cases hp : place s.cfg ea <;> rw [hp] at h <;> first | rfl | cases h

/-- A byte outside what changed reads as before. -/
theorem readByte_of_changes {s t : State} {may : Touch} {st : List Word} {ea : Word} (h : Changes s t may st)
    (hb : ea ∉ st) (hm : ∀ r k, (BLoc.mem ea).touches s.cfg r k = true → may r k = false) :
    readByte t ea = readByte s ea := by
  cases hr : regAt s.cfg ea with
  | none => exact h.bytes ea hb hr
  | some r =>
    rw [readByte_reg hr, readByte_reg (by rw [h.cfg]; exact hr)]
    congr 1
    apply byteOf_congr
    intro k hk
    apply h.regs r k
    apply hm r k
    simp [BLoc.touches, hr, Touch.half]
    simpa using hk

/-- A byte location outside what changed reads as before. -/
theorem readB_of_changes {s t : State} {may : Touch} {st : List Word} {l : BLoc} (h : Changes s t may st)
    (hb : ∀ ea ∈ l.bytes, ea ∉ st) (hm : ∀ r k, l.touches s.cfg r k = true → may r k = false) :
    readB t l = readB s l := by
  cases l with
  | mem ea => exact readByte_of_changes h (hb ea (by simp [BLoc.bytes])) hm
  | pswh =>
    show Except.ok (byteOf t.psw true) = .ok (byteOf s.psw true)
    congr 1
    exact byteOf_congr fun k hk => h.regs .psw k (hm .psw k (by simpa [BLoc.touches, Touch.half] using hk))
  | pswl =>
    show Except.ok (byteOf t.psw false) = .ok (byteOf s.psw false)
    congr 1
    exact byteOf_congr fun k hk => h.regs .psw k (hm .psw k (by simpa [BLoc.touches, Touch.half] using hk))

/-- Everything a byte write can do. -/
theorem writeB_wrote {s t : State} {l : BLoc} {v : Byte} (h : writeB s l v = .ok t) : WroteB s t l v := by
  cases l with
  | mem ea => exact writeByte_wrote h
  | pswh =>
    obtain rfl := (Except.ok.inj h).symm
    refine ⟨changes_setReg_half s .psw true v _, rfl, rfl, ?_⟩
    show Except.ok (byteOf ((s.setReg .psw (withByte (s.reg .psw) true v)).reg .psw) true) = _
    rw [byteOf_reg_setReg]; rfl
  | pswl =>
    obtain rfl := (Except.ok.inj h).symm
    refine ⟨changes_setReg_half s .psw false v _, rfl, rfl, ?_⟩
    show Except.ok (byteOf ((s.setReg .psw (withByte (s.reg .psw) false v)).reg .psw) false) = _
    rw [byteOf_reg_setReg]; rfl

/-- A byte location that can be accessed can be read. -/
theorem readB_total {s : State} {l : BLoc} (h : l.accessible s.cfg = true) : ∃ b, readB s l = .ok b := by
  cases l with
  | mem ea => exact readByte_total h
  | pswh => exact ⟨_, rfl⟩
  | pswl => exact ⟨_, rfl⟩

/-- A byte location that can be accessed can be written. -/
theorem writeB_total {s : State} {l : BLoc} (v : Byte) (h : l.accessible s.cfg = true) :
    ∃ t, writeB s l v = .ok t := by
  cases l with
  | mem ea => exact writeByte_total v h
  | pswh => exact ⟨_, rfl⟩
  | pswl => exact ⟨_, rfl⟩

/-- A byte location that was read can be accessed. -/
theorem BLoc.accessible_of_readB {s : State} {l : BLoc} {b : Byte} (h : readB s l = .ok b) :
    l.accessible s.cfg = true := by
  cases l with
  | mem ea => exact accessible_of_readByte h
  | pswh => rfl
  | pswl => rfl

/-! Words. -/

/-- What a word write did: `t` is `s` with `v` at the location, and nothing else changed. -/
structure WroteW (s t : State) (l : WLoc) (v : Word) : Prop where
  changes : Changes s t (l.touches s.cfg) l.bytes
  pc : t.pc = s.pc
  draws : t.draws = s.draws
  value : readW t l = .ok (v &&& l.mask s.cfg)

theorem readWord_eq {s : State} {ea : Word} {lo hi : Byte} (hl : readByte s (evenAddr ea) = .ok lo)
    (hh : readByte s (evenAddr ea + 1) = .ok hi) : readWord s ea = .ok (mkWord hi lo) := by
  unfold readWord; rw [hl, hh]; rfl

theorem readWord_cases {s : State} {ea v : Word} (h : readWord s ea = .ok v) :
    ∃ lo hi, readByte s (evenAddr ea) = .ok lo ∧ readByte s (evenAddr ea + 1) = .ok hi ∧ v = mkWord hi lo := by
  unfold readWord at h
  cases hl : readByte s (evenAddr ea) with
  | error e => rw [hl] at h; cases h
  | ok lo =>
    cases hh : readByte s (evenAddr ea + 1) with
    | error e => rw [hl, hh] at h; cases h
    | ok hi =>
      rw [hl, hh] at h
      exact ⟨lo, hi, rfl, rfl, (Except.ok.inj h).symm⟩

theorem writeWord_cases {s t : State} {ea v : Word} (h : writeWord s ea v = .ok t) :
    ∃ u, writeByte s (evenAddr ea) (loByte v) = .ok u ∧ writeByte u (evenAddr ea + 1) (hiByte v) = .ok t := by
  unfold writeWord at h
  cases hl : writeByte s (evenAddr ea) (loByte v) with
  | error e => rw [hl] at h; cases h
  | ok u => rw [hl] at h; exact ⟨u, rfl, h⟩

/-- Two byte masks of a word location. -/
theorem WLoc.mask_eq (c : Config) (ea : Word) :
    (WLoc.mem ea).mask c = mkWord ((BLoc.mem (evenAddr ea + 1)).mask c) ((BLoc.mem (evenAddr ea)).mask c) := by
  simp only [WLoc.mask, WLoc.isLrb, BLoc.mask, regAt_even, regAt_succ, evenAddr_bit, evenAddr_succ_bit,
    Bool.and_false, Bool.and_true]
  cases (regAt c ea == some CpuReg.lrb) <;> rfl

theorem mkWord_and (h l v w : Byte) : mkWord (h &&& v) (l &&& w) = mkWord h l &&& mkWord v w := by
  unfold mkWord
  exact BitVec.and_append.symm

/-- Everything a word write to data memory can do. -/
theorem writeWord_wrote {s t : State} {ea v : Word} (h : writeWord s ea v = .ok t) : WroteW s t (.mem ea) v := by
  obtain ⟨u, h1, h2⟩ := writeWord_cases h
  have w1 := writeByte_wrote h1
  have w2 := writeByte_wrote h2
  have hc : u.cfg = s.cfg := w1.changes.cfg
  have t1 : ∀ r k, (WLoc.mem ea).touches s.cfg r k = false → (BLoc.mem (evenAddr ea)).touches s.cfg r k = false := by
    intro r k hk
    simp only [WLoc.touches, BLoc.touches, regAt_even] at hk ⊢
    cases hr : regAt s.cfg ea with
    | none => rfl
    | some q => rw [hr] at hk; simp [Touch.all] at hk; simp [Touch.half, hk]
  have t2 : ∀ r k, (WLoc.mem ea).touches s.cfg r k = false →
      (BLoc.mem (evenAddr ea + 1)).touches s.cfg r k = false := by
    intro r k hk
    simp only [WLoc.touches, BLoc.touches, regAt_succ] at hk ⊢
    cases hr : regAt s.cfg ea with
    | none => rfl
    | some q => rw [hr] at hk; simp [Touch.all] at hk; simp [Touch.half, hk]
  refine ⟨?_, w2.pc.trans w1.pc, w2.draws.trans w1.draws, ?_⟩
  · refine (w1.changes.mono t1 ?_).trans (w2.changes.mono (by rw [hc]; exact t2) ?_)
    · intro a ha; simp [BLoc.bytes] at ha; simp [WLoc.bytes, ha]
    · intro a ha; simp [BLoc.bytes] at ha; simp [WLoc.bytes, ha]
  · have lo : readByte t (evenAddr ea) = .ok (loByte v &&& (BLoc.mem (evenAddr ea)).mask s.cfg) := by
      refine (readByte_of_changes w2.changes ?_ ?_).trans w1.value
      · simp only [BLoc.bytes, List.mem_singleton]; exact evenAddr_ne_succ ea
      · intro r k hk
        simp only [BLoc.touches, regAt_even, regAt_succ, evenAddr_bit, evenAddr_succ_bit] at hk ⊢
        cases hr : regAt u.cfg ea with
        | none => rfl
        | some q =>
          rw [hr] at hk
          simp [Touch.half] at hk
          simp [Touch.half]
          omega
    have hi : readByte t (evenAddr ea + 1) = .ok (hiByte v &&& (BLoc.mem (evenAddr ea + 1)).mask s.cfg) := by
      rw [← hc]; exact w2.value
    show readWord t ea = _
    rw [readWord_eq lo hi, mkWord_and, mkWord_bytes, WLoc.mask_eq]

theorem WLoc.accessible_mem {c : Config} {ea : Word} (h : (WLoc.mem ea).accessible c = true) :
    Machine.accessible c (evenAddr ea) = true ∧ Machine.accessible c (evenAddr ea + 1) = true := by
  simpa [WLoc.accessible] using h

/-- Everything a word write can do. -/
theorem writeW_wrote {s t : State} {l : WLoc} {v : Word} (h : writeW s l v = .ok t) : WroteW s t l v := by
  cases l with
  | mem ea => exact writeWord_wrote h
  | ssp =>
    obtain rfl := (Except.ok.inj h).symm
    exact ⟨changes_setReg s .ssp v _, rfl, rfl, congrArg Except.ok (reg_setReg_self s .ssp v)⟩
  | lrb =>
    obtain rfl := (Except.ok.inj h).symm
    exact ⟨changes_setReg s .lrb v _, rfl, rfl, congrArg Except.ok (reg_setReg_self s .lrb v)⟩

/-- A word location that can be accessed can be read. -/
theorem readW_total {s : State} {l : WLoc} (h : l.accessible s.cfg = true) : ∃ v, readW s l = .ok v := by
  cases l with
  | mem ea =>
    obtain ⟨h1, h2⟩ := WLoc.accessible_mem h
    obtain ⟨a, ha⟩ := readByte_total h1
    obtain ⟨b, hb⟩ := readByte_total h2
    exact ⟨_, readWord_eq ha hb⟩
  | ssp => exact ⟨_, rfl⟩
  | lrb => exact ⟨_, rfl⟩

/-- A word location that can be accessed can be written. -/
theorem writeW_total {s : State} {l : WLoc} (v : Word) (h : l.accessible s.cfg = true) :
    ∃ t, writeW s l v = .ok t := by
  cases l with
  | mem ea =>
    obtain ⟨h1, h2⟩ := WLoc.accessible_mem h
    obtain ⟨u, hu⟩ := writeByte_total (loByte v) h1
    have hc := (writeByte_wrote hu).changes.cfg
    obtain ⟨t, ht⟩ := writeByte_total (s := u) (hiByte v) (by rw [hc]; exact h2)
    exact ⟨t, by show writeWord s ea v = _; unfold writeWord; rw [hu]; exact ht⟩
  | ssp => exact ⟨_, rfl⟩
  | lrb => exact ⟨_, rfl⟩

/-- A word location that was read can be accessed. -/
theorem WLoc.accessible_of_readW {s : State} {l : WLoc} {v : Word} (h : readW s l = .ok v) :
    l.accessible s.cfg = true := by
  cases l with
  | mem ea =>
    obtain ⟨a, b, ha, hb, _⟩ := readWord_cases h
    simp only [WLoc.accessible, accessible_of_readByte ha, accessible_of_readByte hb, Bool.and_self]
  | ssp => rfl
  | lrb => rfl

/-- A word location outside what changed reads as before. -/
theorem readW_of_changes {s t : State} {may : Touch} {st : List Word} {l : WLoc} (h : Changes s t may st)
    (hb : ∀ ea ∈ l.bytes, ea ∉ st) (hm : ∀ r k, l.touches s.cfg r k = true → may r k = false) :
    readW t l = readW s l := by
  cases l with
  | mem ea =>
    have h1 : readByte t (evenAddr ea) = readByte s (evenAddr ea) := by
      refine readByte_of_changes h (hb _ (by simp [WLoc.bytes])) fun r k hk => hm r k ?_
      simp only [WLoc.touches, BLoc.touches, regAt_even] at hk ⊢
      cases hr : regAt s.cfg ea with
      | none => rw [hr] at hk; exact hk
      | some q => rw [hr] at hk; simp [Touch.half] at hk; simp [Touch.all, hk]
    have h2 : readByte t (evenAddr ea + 1) = readByte s (evenAddr ea + 1) := by
      refine readByte_of_changes h (hb _ (by simp [WLoc.bytes])) fun r k hk => hm r k ?_
      simp only [WLoc.touches, BLoc.touches, regAt_succ] at hk ⊢
      cases hr : regAt s.cfg ea with
      | none => rw [hr] at hk; exact hk
      | some q => rw [hr] at hk; simp [Touch.half] at hk; simp [Touch.all, hk]
    show readWord t ea = readWord s ea
    unfold readWord; rw [h1, h2]
  | ssp =>
    show Except.ok (t.reg .ssp) = .ok (s.reg .ssp)
    congr 1
    apply BitVec.eq_of_getLsbD_eq
    intro k _
    exact h.regs .ssp k (hm .ssp k rfl)
  | lrb =>
    show Except.ok (t.reg .lrb) = .ok (s.reg .lrb)
    congr 1
    apply BitVec.eq_of_getLsbD_eq
    intro k _
    exact h.regs .lrb k (hm .lrb k rfl)

end Sys2Proof.Machine
end

