-- ==== Sys2Proof/Laws/Steps.lean ====
section
/-! SUPPORT. Laws of the operations that end an instruction (finish, writeFlags), of the flag computations, of the
stack and of taking and leaving an event: each says once what the operation does when it goes through. -/

namespace Sys2Proof.Machine

/-! Going on, and the end of an instruction. -/

@[simp] theorem Res.bind_ok {α β : Type} (a : α) (f : α → Res β) : (Except.ok a >>= f : Res β) = f a := rfl

@[simp] theorem Res.bind_error {α β : Type} (e : Stop) (f : α → Res β) :
    (Except.error e >>= f : Res β) = .error e := rfl

@[simp] theorem outcome_ok (s : State) : outcome (.ok s) = .next s := rfl

@[simp] theorem outcome_refuse (r : Refusal) : outcome (refuse r) = .refused r := rfl

/-- A result that goes on comes from both parts going on. -/
theorem Res.bind_eq_ok {α β : Type} {x : Res α} {f : α → Res β} {b : β} (h : (x >>= f) = .ok b) :
    ∃ a, x = .ok a ∧ f a = .ok b := by
  cases x with
  | error e => cases h
  | ok a => exact ⟨a, rfl, h⟩

/-- An outcome that goes on is a result that goes on. -/
theorem outcome_next {r : Res State} {t : State} (h : outcome r = .next t) : r = .ok t := by
  cases r with
  | ok s => cases h; rfl
  | error e => cases e <;> cases h

theorem advance_ok {n : Nat} {s : State} (h : s.pc.toNat + n ≤ 0xFFFF) :
    advance n s = .ok (s.setPc (s.pc + BitVec.ofNat 16 n)) := if_pos h

theorem advance_cases {n : Nat} {s t : State} (h : advance n s = .ok t) :
    s.pc.toNat + n ≤ 0xFFFF ∧ t = s.setPc (s.pc + BitVec.ofNat 16 n) := by
  unfold advance at h
  split at h
  · next hn => exact ⟨hn, (Except.ok.inj h).symm⟩
  · cases h

/-- An instruction of `n` bytes whose operation goes through ends at the next instruction. -/
theorem finish_next {n : Nat} {r : Res State} {t : State} {pc : Word} (h : r = .ok t) (hp : t.pc = pc)
    (hl : pc.toNat + n ≤ 0xFFFF) : finish n r = .next (t.setPc (pc + BitVec.ofNat 16 n)) := by
  subst h hp
  show outcome (advance n t) = _
  rw [advance_ok hl]; rfl

/-- What an instruction that goes on went through. -/
theorem finish_cases {n : Nat} {r : Res State} {t : State} (h : finish n r = .next t) :
    ∃ u, r = .ok u ∧ u.pc.toNat + n ≤ 0xFFFF ∧ t = u.setPc (u.pc + BitVec.ofNat 16 n) := by
  obtain ⟨u, hu, ha⟩ := Res.bind_eq_ok (outcome_next h)
  exact ⟨u, hu, advance_cases ha⟩

/-! Frames in sequence. -/

/-- Two changes one after the other. -/
theorem Changes.comp {s t u : State} {f g : Touch} {st : List Word} (h1 : Changes s t f st) (h2 : Changes t u g st) :
    Changes s u (f.or g) st :=
  (h1.mono (fun _ _ h => (Touch.or_eq_false.1 h).1) fun _ h => h).trans
    (h2.mono (fun _ _ h => (Touch.or_eq_false.1 h).2) fun _ h => h)

/-- A change and then a new PC. -/
theorem Changes.setPc {s t : State} {f : Touch} {st : List Word} (h : Changes s t f st) (v : Word) :
    Changes s (t.setPc v) f st := h.trans (changes_setPc t v f st)

/-- More bytes may have been stored. -/
theorem Changes.stored {s t : State} {f : Touch} {st : List Word} (h : Changes s t f []) : Changes s t f st :=
  h.mono (fun _ _ h => h) (fun _ h => by cases h)

theorem Changes.flag {s t : State} {f : Touch} {st : List Word} (h : Changes s t f st) (g : Flag)
    (hg : f .psw (g.bit s.cfg) = false) : t.flag g = s.flag g := by
  unfold State.flag; rw [h.cfg]; exact h.regs .psw _ hg

theorem Changes.dd {s t : State} {f : Touch} {st : List Word} (h : Changes s t f st) (hg : f .psw 12 = false) :
    t.dd = s.dd := h.regs .psw 12 hg

theorem Changes.a {s t : State} {f : Touch} {st : List Word} (h : Changes s t f st) (hg : ∀ k, f .acc k = false) :
    t.a = s.a := BitVec.eq_of_getLsbD_eq fun k _ => h.regs .acc k (hg k)

theorem Changes.ssp {s t : State} {f : Touch} {st : List Word} (h : Changes s t f st) (hg : ∀ k, f .ssp k = false) :
    t.ssp = s.ssp := BitVec.eq_of_getLsbD_eq fun k _ => h.regs .ssp k (hg k)

theorem Changes.psw {s t : State} {f : Touch} {st : List Word} (h : Changes s t f st) (hg : ∀ k, f .psw k = false) :
    t.psw = s.psw := BitVec.eq_of_getLsbD_eq fun k _ => h.regs .psw k (hg k)

theorem Changes.lrbWord {s t : State} {f : Touch} {st : List Word} (h : Changes s t f st)
    (hg : ∀ k, f .lrb k = false) : t.lrbWord = s.lrbWord :=
  BitVec.eq_of_getLsbD_eq fun k _ => h.regs .lrb k (hg k)

@[simp] theorem readByte_setPc (s : State) (v ea : Word) : readByte (s.setPc v) ea = readByte s ea := rfl

@[simp] theorem readB_setPc (s : State) (v : Word) (l : BLoc) : readB (s.setPc v) l = readB s l := by
  cases l <;> rfl

@[simp] theorem readWord_setPc (s : State) (v ea : Word) : readWord (s.setPc v) ea = readWord s ea := rfl

@[simp] theorem readW_setPc (s : State) (v : Word) (l : WLoc) : readW (s.setPc v) l = readW s l := by
  cases l <;> rfl

/-! The flags. -/

/-- What the admitted flag positions give (spec/10_state.md R28). -/
structure FlagsApart (c : Config) : Prop where
  cf_zf : Flag.cf.bit c ≠ Flag.zf.bit c
  cf_hc : Flag.cf.bit c ≠ Flag.hc.bit c
  zf_hc : Flag.zf.bit c ≠ Flag.hc.bit c
  sf_cf : Flag.sf.bit c ≠ Flag.cf.bit c
  sf_zf : Flag.sf.bit c ≠ Flag.zf.bit c
  sf_hc : Flag.sf.bit c ≠ Flag.hc.bit c
  cf_dd : Flag.cf.bit c ≠ 12
  zf_dd : Flag.zf.bit c ≠ 12
  hc_dd : Flag.hc.bit c ≠ 12
  sf_dd : Flag.sf.bit c ≠ 12
  cf_high : 8 ≤ Flag.cf.bit c
  zf_high : 8 ≤ Flag.zf.bit c
  hc_high : 8 ≤ Flag.hc.bit c
  sf_scb : 3 ≤ Flag.sf.bit c

theorem legalConfig.apart {c : Config} (h : legalConfig c) : FlagsApart c := by
  have h1 := h.1
  simp only [flagBitsLegal, List.all_cons, List.all_nil, Bool.and_true, Bool.and_eq_true, decide_eq_true_eq, bne_iff_ne,
    ne_eq, List.nodup_cons, List.mem_cons, List.not_mem_nil, or_false, not_or, Fin.ext_iff] at h1
  constructor <;> simp only [Flag.bit, ne_eq] <;> omega

/-- What a flag reads after a write of a flag. -/
theorem flag_setFlag (s : State) (f g : Flag) (b : Bool) :
    (s.setFlag f b).flag g = if g.bit s.cfg = f.bit s.cfg then b else s.flag g := by
  by_cases h : g.bit s.cfg = f.bit s.cfg
  · rw [if_pos h]; unfold State.flag; rw [State.setFlag_cfg, h]; exact State.flag_setFlag_self s f b
  · rw [if_neg h]; exact s.flag_setFlag_ne f g b h

/-- What the flags of a byte operation are. -/
theorem aluFlagsB_spec {s : State} (hf : FlagsApart s.cfg) (r : AluOut 8) :
    (s.aluFlagsB r).flag .zf = (r.result == 0#8) ∧ (∀ c, r.carry = some c → (s.aluFlagsB r).flag .cf = c) ∧
    (∀ h, r.half = some h → (s.aluFlagsB r).flag .hc = h) := by
  have h1 := hf.cf_zf; have h2 := hf.zf_hc; have h3 := hf.cf_hc; have h4 := h1.symm
  obtain ⟨res, ca, ha⟩ := r
  cases ca <;> cases ha <;> simp [State.aluFlagsB, flag_setFlag, h1, h2, h3, h4]

/-- What the flags of a word operation are. -/
theorem aluFlagsW_spec {s : State} (hf : FlagsApart s.cfg) (r : AluOut 16) :
    (s.aluFlagsW r).flag .zf = (r.result == 0#16) ∧ (∀ c, r.carry = some c → (s.aluFlagsW r).flag .cf = c) := by
  have h1 := hf.cf_zf; have h2 := hf.zf_hc; have h3 := hf.cf_hc; have h4 := h1.symm
  obtain ⟨res, ca, ha⟩ := r
  cases ca <;> cases ha <;> simp [State.aluFlagsW, State.freeFlag, flag_setFlag, h1, h2, h3, h4]

/-- The flags an operation's outcome writes. -/
def AluOut.flags {w : Nat} (r : AluOut w) : List Flag :=
  .zf :: ((if r.carry.isSome then [.cf] else []) ++ if r.half.isSome then [.hc] else [])

/-- The flags an ALU operation writes are those its row of the spec names. -/
theorem alu_flags {w : Nat} (op : AluOp) (a b : BitVec w) (c : Bool) : (alu op a b c).flags = op.flags := by
  cases op <;> rfl

theorem changes_aluFlagsB (s : State) (r : AluOut 8) (st : List Word) :
    Changes s (s.aluFlagsB r) (Touch.flags s.cfg r.flags) st := by
  obtain ⟨res, ca, ha⟩ := r
  have z := changes_setFlag s .zf (res == 0#8) st
  have c := changes_setFlag? (s.setFlag .zf (res == 0#8)) .cf ca st
  have h := changes_setFlag? ((s.setFlag .zf (res == 0#8)).setFlag? .cf ca) .hc ha st
  cases ca <;> cases ha <;> simp only [State.aluFlagsB, State.setFlag?_none, State.setFlag?_some] at *
  · exact z
  · exact (z.comp h).mono (by simp [Touch.or, Touch.flags, AluOut.flags]; grind) fun _ h => h
  · exact (z.comp c).mono (by simp [Touch.or, Touch.flags, AluOut.flags]; grind) fun _ h => h
  · exact ((z.comp c).comp h).mono (by simp [Touch.or, Touch.flags, AluOut.flags]; grind) fun _ h => h

theorem changes_aluFlagsW (s : State) (r : AluOut 16) (st : List Word) :
    Changes s (s.aluFlagsW r) (Touch.flags s.cfg r.flags) st := by
  obtain ⟨res, ca, ha⟩ := r
  have z := changes_setFlag s .zf (res == 0#16) st
  have c := changes_setFlag? (s.setFlag .zf (res == 0#16)) .cf ca st
  have h := changes_freeFlag ((s.setFlag .zf (res == 0#16)).setFlag? .cf ca) .hc st
  cases ca <;> cases ha <;> simp only [State.aluFlagsW, State.setFlag?_none, State.setFlag?_some, Option.isSome, cond_true, cond_false] at *
  · exact z
  · exact (z.comp h).mono (by simp [Touch.or, Touch.flags, AluOut.flags]; grind) fun _ h => h
  · exact (z.comp c).mono (by simp [Touch.or, Touch.flags, AluOut.flags]; grind) fun _ h => h
  · exact ((z.comp c).comp h).mono (by simp [Touch.or, Touch.flags, AluOut.flags]; grind) fun _ h => h

/-! A result and then its flags. -/

/-- A word result that does not land in PSWH is written, and then the flags. -/
theorem writeFlagsW_ok {s : State} {l : WLoc} (v : Word) (f : State → State) (ha : l.accessible s.cfg = true)
    (hp : l.holdsPswh s.cfg = false) : ∃ t, writeFlagsW s l v f = .ok (f t) ∧ WroteW s t l v := by
  obtain ⟨t, ht⟩ := writeW_total v ha
  refine ⟨t, ?_, writeW_wrote ht⟩
  unfold writeFlagsW
  rw [hp, ht]; rfl

/-- A byte result that does not land in PSWH is written, and then the flags. -/
theorem writeFlagsB_ok {s : State} {l : BLoc} (v : Byte) (f : State → State) (ha : l.accessible s.cfg = true)
    (hp : l.holdsPswh s.cfg = false) : ∃ t, writeFlagsB s l v f = .ok (f t) ∧ WroteB s t l v := by
  obtain ⟨t, ht⟩ := writeB_total v ha
  refine ⟨t, ?_, writeB_wrote ht⟩
  unfold writeFlagsB
  rw [hp, ht]; rfl

/-- A word location that does not hold PSWH touches no bit of PSW. -/
theorem WLoc.touches_psw {c : Config} {l : WLoc} (h : l.holdsPswh c = false) (k : Nat) :
    l.touches c .psw k = false := by
  cases l with
  | ssp => rfl
  | lrb => rfl
  | mem ea =>
    simp only [WLoc.touches]
    cases hr : regAt c ea with
    | none => rfl
    | some r => cases r <;> first | rfl | (simp [WLoc.holdsPswh, hr] at h)

/-- A byte location that does not hold PSWH touches no bit of PSWH. -/
theorem BLoc.touches_psw {c : Config} {l : BLoc} (h : l.holdsPswh c = false) {k : Nat} (hk : 8 ≤ k) :
    l.touches c .psw k = false := by
  cases l with
  | pswh => cases h
  | pswl => simp [BLoc.touches, Touch.half, hk]
  | mem ea =>
    simp only [BLoc.touches]
    cases hr : regAt c ea with
    | none => rfl
    | some r =>
      cases r <;> first | rfl | skip
      simp [BLoc.holdsPswh, hr] at h
      simp [Touch.half, hk, h]

/-- Reading a word location that holds no part of PSW is not changed by writing flags. -/
theorem readW_flags {s t : State} {l : WLoc} {c : Config} {fs : List Flag} {st : List Word}
    (h : Changes s t (Touch.flags c fs) st) (hst : ∀ ea ∈ l.bytes, ea ∉ st) (hp : l.holdsPswh s.cfg = false) :
    readW t l = readW s l :=
  readW_of_changes h hst fun r k hk => by
    cases r <;> first | rfl | skip
    rw [WLoc.touches_psw hp] at hk; cases hk

/-- Reading a byte location that is no part of PSWH is not changed by writing flags in PSWH. -/
theorem readB_flags {s t : State} {l : BLoc} {c : Config} {fs : List Flag} {st : List Word}
    (h : Changes s t (Touch.flags c fs) st) (hst : ∀ ea ∈ l.bytes, ea ∉ st) (hp : l.holdsPswh s.cfg = false)
    (hf : ∀ f ∈ fs, 8 ≤ f.bit c) : readB t l = readB s l :=
  readB_of_changes h hst fun r k hk => by
    cases r <;> first | rfl | skip
    by_cases h8 : 8 ≤ k
    · rw [BLoc.touches_psw hp h8] at hk; cases hk
    · simp only [Touch.flags, beq_self_eq_true, Bool.true_and, List.any_eq_false, beq_iff_eq]
      intro f hfm he
      have := hf f hfm
      omega

/-! The stack. -/

/-- Everything a push can do. -/
theorem push16_cases {s t : State} {v : Word} (h : push16 v s = .ok t) :
    2 ≤ s.ssp.toNat ∧ ∃ u, WroteW s u (.mem s.ssp) v ∧ t = { u with ssp := s.ssp - 2 } := by
  unfold push16 at h
  split at h
  · next h2 =>
    obtain ⟨u, hu, ht⟩ := Res.bind_eq_ok h
    exact ⟨h2, u, writeWord_wrote hu, (Except.ok.inj ht).symm⟩
  · cases h

/-- A push goes through where the stack word can be written and SSP stays in range. -/
theorem push16_ok {s : State} (v : Word) (h : 2 ≤ s.ssp.toNat) (ha : (WLoc.mem s.ssp).accessible s.cfg = true) :
    ∃ u, WroteW s u (.mem s.ssp) v ∧ push16 v s = .ok { u with ssp := s.ssp - 2 } := by
  obtain ⟨u, hu⟩ := writeW_total v ha
  refine ⟨u, writeW_wrote hu, ?_⟩
  unfold push16
  rw [if_pos h, show writeWord s s.ssp v = .ok u from hu]; rfl

/-- A new SSP changes only SSP. -/
theorem changes_ssp (s : State) (v : Word) (st : List Word) : Changes s { s with ssp := v } (Touch.all .ssp) st :=
  changes_setReg s .ssp v st

/-- Everything a pop can do. -/
theorem pop16_cases {s : State} {v : Word} {t : State} (h : pop16 s = .ok (v, t)) :
    s.ssp.toNat + 2 ≤ 0xFFFF ∧ readWord s (s.ssp + 2) = .ok v ∧ t = { s with ssp := s.ssp + 2 } := by
  unfold pop16 at h
  split at h
  · next h2 =>
    obtain ⟨u, hu, ht⟩ := Res.bind_eq_ok h
    cases ht
    exact ⟨h2, hu, rfl⟩
  · cases h

/-- A pop goes through where the stack word can be read and SSP stays in range. -/
theorem pop16_ok {s : State} {v : Word} (h : s.ssp.toNat + 2 ≤ 0xFFFF) (hv : readWord s (s.ssp + 2) = .ok v) :
    pop16 s = .ok (v, { s with ssp := s.ssp + 2 }) := by
  unfold pop16
  rw [if_pos h, hv]; rfl

/-! Program memory and reset events. -/

theorem romWord_ok {s : State} {a : Word} {lo hi : Byte} (ha : a.toNat < 0xFFFF) (hl : s.rom.cell a.toNat = some lo)
    (hh : s.rom.cell (a.toNat + 1) = some hi) : romWord s a = .ok (mkWord hi lo) := by
  have hne : a ≠ 0xFFFF#16 := by intro h; subst h; simp at ha
  unfold romWord romByte
  rw [if_neg hne, hl, hh]; rfl

theorem romWord_cases {s : State} {a v : Word} (h : romWord s a = .ok v) :
    a ≠ 0xFFFF#16 ∧ ∃ lo hi, s.rom.cell a.toNat = some lo ∧ s.rom.cell (a.toNat + 1) = some hi ∧ v = mkWord hi lo := by
  unfold romWord romByte at h
  split at h
  · cases h
  · next hne =>
    refine ⟨hne, ?_⟩
    cases hl : s.rom.cell a.toNat with
    | none => rw [hl] at h; cases h
    | some lo =>
      cases hh : s.rom.cell (a.toNat + 1) with
      | none => rw [hl, hh] at h; cases h
      | some hi => rw [hl, hh] at h; exact ⟨lo, hi, rfl, rfl, (Except.ok.inj h).symm⟩

@[simp] theorem resetProcessing_cfg (s : State) : (resetProcessing s).cfg = s.cfg := rfl
@[simp] theorem resetProcessing_rom (s : State) : (resetProcessing s).rom = s.rom := rfl
@[simp] theorem resetProcessing_env (s : State) : (resetProcessing s).env = s.env := rfl

/-- DD is 0 after reset processing (spec/70_reset_and_hazards.md R491). -/
@[simp] theorem resetProcessing_dd (s : State) : (resetProcessing s).dd = false := by
  show (setBit (Config.freeWord (s.draws + 1)) 12 false).getLsbD 12 = false
  simp

/-- Data memory after reset processing (R492). -/
theorem resetProcessing_ram (s : State) : (resetProcessing s).ram =
    bif s.cfg.resetKeepsRam then s.ram else Memory.ofCells (isRam s.cfg) (Config.freeCells s.draws) := rfl

/-- A reset event goes through where its vector is present. -/
theorem takeReset_ok {s : State} {cause : ResetCause} {lo hi : Byte} (hl : s.rom.cell cause.vector.toNat = some lo)
    (hh : s.rom.cell (cause.vector.toNat + 1) = some hi) :
    takeReset cause s = .ok ((resetProcessing s).setPc (mkWord hi lo)) := by
  unfold takeReset
  rw [romWord_ok (by cases cause <;> decide) hl hh]; rfl

/-- Everything a reset event can do. -/
theorem takeReset_cases {s t : State} {cause : ResetCause} (h : takeReset cause s = .ok t) :
    ∃ v, romWord s cause.vector = .ok v ∧ t = (resetProcessing s).setPc v := by
  obtain ⟨v, hv, ht⟩ := Res.bind_eq_ok h
  exact ⟨v, hv, (Except.ok.inj ht).symm⟩

end Sys2Proof.Machine
end

