-- ==== Sys2Proof/Laws/Environment.lean ====
section
/-! SUPPORT. Laws of the environment: which event is due at a boundary, and what a step does with it. -/

namespace Sys2Proof.Machine

@[simp] theorem Environment.next_schedule (env : Environment) : env.next.schedule = env.schedule.tail := rfl
@[simp] theorem Environment.next_passed (env : Environment) : env.next.passed = env.passed + 1 := rfl

@[simp] theorem Environment.choice_instruction (rest : List Turn) (n : Nat) :
    (Environment.mk (.instruction :: rest) n).choice = none := rfl
@[simp] theorem Environment.choice_event (e : Event) (rest : List Turn) (n : Nat) :
    (Environment.mk (.event e :: rest) n).choice = some e := rfl
@[simp] theorem Environment.choice_free (n : Nat) : (Environment.mk [] n).choice = Config.freeEvent n := rfl

@[simp] theorem State.passBoundary_cfg (s : State) : s.passBoundary.cfg = s.cfg := rfl
@[simp] theorem State.passBoundary_a (s : State) : s.passBoundary.a = s.a := rfl
@[simp] theorem State.passBoundary_psw (s : State) : s.passBoundary.psw = s.psw := rfl
@[simp] theorem State.passBoundary_lrb (s : State) : s.passBoundary.lrb = s.lrb := rfl
@[simp] theorem State.passBoundary_ssp (s : State) : s.passBoundary.ssp = s.ssp := rfl
@[simp] theorem State.passBoundary_pc (s : State) : s.passBoundary.pc = s.pc := rfl
@[simp] theorem State.passBoundary_ram (s : State) : s.passBoundary.ram = s.ram := rfl
@[simp] theorem State.passBoundary_rom (s : State) : s.passBoundary.rom = s.rom := rfl
@[simp] theorem State.passBoundary_env (s : State) : s.passBoundary.env = s.env.next := rfl
@[simp] theorem State.passBoundary_draws (s : State) : s.passBoundary.draws = s.draws := rfl

/-- An event is due exactly where the environment chooses it and it is live (spec/60_exceptions.md R460). -/
theorem State.due_eq_some {s : State} {e : Event} : s.due = some e ↔ e ∈ s.cfg.intLive ∧ s.env.choice = some e := by
  unfold State.due
  constructor
  · intro h
    exact ⟨List.mem_of_find?_eq_some h, by simpa using List.find?_some h⟩
  · rintro ⟨hm, hc⟩
    rw [hc]
    cases hf : s.cfg.intLive.find? fun x => some e == some x with
    | none => exact absurd (List.find?_eq_none.mp hf e hm) (by simp)
    | some x =>
      have := List.find?_some hf
      simp_all

/-- No event is due exactly where the environment chooses none or one that is not live (R460). -/
theorem State.due_eq_none {s : State} : s.due = none ↔ ∀ e ∈ s.cfg.intLive, s.env.choice ≠ some e := by
  unfold State.due
  simp [List.find?_eq_none]

/-- With `INT_LIVE` empty nothing is ever due, whatever the environment chooses. -/
theorem State.due_of_quiet {s : State} (h : s.cfg.intLive = []) : s.due = none :=
  State.due_eq_none.mpr fun e he => by simp [h] at he

/-- A step at which an event is due takes it. -/
theorem step_of_due {s : State} {e : Event} (h : s.due = some e) : step s = outcome (takeEvent e s.passBoundary) := by
  unfold step; rw [h]

/-- A step at which no event is due runs an instruction. -/
theorem step_of_none_due {s : State} (h : s.due = none) : step s = runInstruction s.passBoundary := by
  unfold step; rw [h]

/-- Everything a step can do. -/
theorem step_cases {s t : State} (h : step s = .next t) :
    (∃ e, s.due = some e ∧ takeEvent e s.passBoundary = .ok t) ∨
      (s.due = none ∧ ((∃ i n, fetch s.passBoundary = .instr i n ∧ exec i s.passBoundary = .next t))) := by
  cases hd : s.due with
  | some e =>
    rw [step_of_due hd] at h
    exact .inl ⟨e, rfl, outcome_next h⟩
  | none =>
    rw [step_of_none_due hd] at h
    refine .inr ⟨rfl, ?_⟩
    unfold runInstruction at h
    split at h
    · next i n hf => exact ⟨i, n, hf, h⟩
    · cases h
    · have := outcome_next h
      unfold missingByte at this
      split at this <;> cases this

end Sys2Proof.Machine
end

