-- ==== Sys2Proof/Laws/Flags.lean ====
section
/-! SUPPORT. Laws of the operations that end in flags: the loads, the ALU on the accumulator, the steps and the wide
zero flag. -/

namespace Sys2Proof.Machine

/-- What `L A,obj` does with its operand (spec/40_data_transfer.md R151). -/
theorem loadA_spec (s : State) (v : Word) (hf : FlagsApart s.cfg) :
    (s.loadA v).a = v ∧ (s.loadA v).dd = true ∧ (s.loadA v).flag .zf = (v == 0#16) ∧ (s.loadA v).pc = s.pc ∧
    Changes s (s.loadA v) ((Touch.all .acc).or (Touch.dd.or (Touch.flags s.cfg [.zf]))) [] := by
  refine ⟨rfl, ?_, State.flag_setFlag_self _ _ _, rfl, ?_⟩
  · exact (State.dd_setFlag ((s.setA v).setDd true) .zf _ hf.zf_dd).trans (State.dd_setDd _ _)
  · exact (changes_setA s v []).comp ((changes_setDd _ true []).comp (changes_setFlag _ .zf _ []))

/-- What `LB A,obj` does with its operand (R152). -/
theorem loadAl_spec (s : State) (v : Byte) (hf : FlagsApart s.cfg) :
    (s.loadAl v).al = v ∧ (s.loadAl v).dd = false ∧ (s.loadAl v).flag .zf = (v == 0#8) ∧ (s.loadAl v).pc = s.pc ∧
    Changes s (s.loadAl v) ((Touch.half .acc false).or (Touch.dd.or (Touch.flags s.cfg [.zf]))) [] := by
  refine ⟨State.al_setAl s v, ?_, State.flag_setFlag_self _ _ _, rfl, ?_⟩
  · exact (State.dd_setFlag ((s.setAl v).setDd false) .zf _ hf.zf_dd).trans (State.dd_setDd _ _)
  · exact (changes_setAl s v []).comp ((changes_setDd _ false []).comp (changes_setFlag _ .zf _ []))

@[simp] theorem aluFlagsW_pc (s : State) (r : AluOut 16) : (s.aluFlagsW r).pc = s.pc := by
  obtain ⟨a, c, h⟩ := r; cases c <;> cases h <;> rfl

@[simp] theorem aluFlagsB_pc (s : State) (r : AluOut 8) : (s.aluFlagsB r).pc = s.pc := by
  obtain ⟨a, c, h⟩ := r; cases c <;> cases h <;> rfl

@[simp] theorem aluFlagsW_a (s : State) (r : AluOut 16) : (s.aluFlagsW r).a = s.a := by
  obtain ⟨a, c, h⟩ := r; cases c <;> cases h <;> rfl

@[simp] theorem aluFlagsB_a (s : State) (r : AluOut 8) : (s.aluFlagsB r).a = s.a := by
  obtain ⟨a, c, h⟩ := r; cases c <;> cases h <;> rfl

/-- The flags of an ALU operation lie in PSWH (spec/10_state.md R28). -/
theorem aluOp_flags_high {c : Config} (hf : FlagsApart c) (op : AluOp) : ∀ f ∈ op.flags, 8 ≤ f.bit c := by
  have := hf.zf_high; have := hf.hc_high; have := hf.cf_high
  intro f hm
  cases op <;> simp [AluOp.flags] at hm <;> rcases hm with rfl | rfl | rfl <;> assumption

/-- `A <- A op v` with its flags (spec/45_arithmetic.md R293, spec/47_compare.md R370). -/
theorem aluAccW_spec (s : State) (hf : FlagsApart s.cfg) (op : AluOp) (v : Word) :
    (s.aluAccW op v).a = (if op.stores then (alu op s.a v (s.flag .cf)).result else s.a) ∧
    (s.aluAccW op v).flag .zf = ((alu op s.a v (s.flag .cf)).result == 0#16) ∧
    (∀ c, (alu op s.a v (s.flag .cf)).carry = some c → (s.aluAccW op v).flag .cf = c) ∧
    (s.aluAccW op v).pc = s.pc ∧
    Changes s (s.aluAccW op v) ((if op.stores then Touch.all .acc else Touch.nothing).or
      (Touch.flags s.cfg op.flags)) [] := by
  generalize ht : s.aluAccW op v = t
  replace ht : t = (bif op.stores then s.setA (alu op s.a v (s.flag .cf)).result else s).aluFlagsW
    (alu op s.a v (s.flag .cf)) := ht.symm
  have hfl := alu_flags op s.a v (s.flag .cf)
  generalize alu op s.a v (s.flag .cf) = out at *
  subst ht
  cases op.stores
  · obtain ⟨z, c⟩ := aluFlagsW_spec hf out
    refine ⟨aluFlagsW_a _ _, z, c, aluFlagsW_pc _ _, ?_⟩
    rw [← hfl]; exact (Changes.refl s _ []).comp (changes_aluFlagsW s _ [])
  · obtain ⟨z, c⟩ := aluFlagsW_spec (s := s.setA out.result) hf out
    refine ⟨aluFlagsW_a _ _, z, c, aluFlagsW_pc _ _, ?_⟩
    rw [← hfl]; exact (changes_setA s _ []).comp (changes_aluFlagsW (s.setA out.result) _ [])

/-- `AL <- AL op v` with its flags, AH unchanged (R293, R297, R370). -/
theorem aluAccB_spec (s : State) (hf : FlagsApart s.cfg) (op : AluOp) (v : Byte) :
    (s.aluAccB op v).al = (if op.stores then (alu op s.al v (s.flag .cf)).result else s.al) ∧
    (s.aluAccB op v).flag .zf = ((alu op s.al v (s.flag .cf)).result == 0#8) ∧
    (∀ c, (alu op s.al v (s.flag .cf)).carry = some c → (s.aluAccB op v).flag .cf = c) ∧
    (∀ c, (alu op s.al v (s.flag .cf)).half = some c → (s.aluAccB op v).flag .hc = c) ∧
    (s.aluAccB op v).pc = s.pc ∧
    Changes s (s.aluAccB op v) ((if op.stores then Touch.half .acc false else Touch.nothing).or
      (Touch.flags s.cfg op.flags)) [] := by
  generalize ht : s.aluAccB op v = t
  replace ht : t = (bif op.stores then s.setAl (alu op s.al v (s.flag .cf)).result else s).aluFlagsB
    (alu op s.al v (s.flag .cf)) := ht.symm
  have hfl := alu_flags op s.al v (s.flag .cf)
  generalize alu op s.al v (s.flag .cf) = out at *
  subst ht
  cases op.stores
  · obtain ⟨z, c, h⟩ := aluFlagsB_spec hf out
    refine ⟨congrArg loByte (aluFlagsB_a _ _), z, c, h, aluFlagsB_pc _ _, ?_⟩
    rw [← hfl]; exact (Changes.refl s _ []).comp (changes_aluFlagsB s _ [])
  · obtain ⟨z, c, h⟩ := aluFlagsB_spec (s := s.setAl out.result) hf out
    refine ⟨(congrArg loByte (aluFlagsB_a _ _)).trans (State.al_setAl _ _), z, c, h, aluFlagsB_pc _ _, ?_⟩
    rw [← hfl]; exact (changes_setAl s _ []).comp (changes_aluFlagsB (s.setAl out.result) _ [])

/-- The flag that INC and DEC write beside ZF (spec/43_inc_dec.md R260). -/
def Config.stepFlag (c : Config) : Flag := if c.incDecFlag = .hc then .hc else .cf

theorem changes_stepSecond {w : Nat} (s : State) (op : StepOp) (v : BitVec w) (st : List Word) :
    Changes s (s.stepSecond op v) (Touch.flags s.cfg [Config.stepFlag s.cfg]) st := by
  unfold State.stepSecond Config.stepFlag
  split <;> next h => rw [h]; exact changes_setFlag s _ _ st

/-- What the flags of INC and DEC leave unchanged (R260, R262). -/
theorem changes_stepFlags {w : Nat} (s : State) (op : StepOp) (b : Bool) (v r : BitVec w) (st : List Word) :
    Changes s (s.stepFlags op b v r) ((if b = true ∧ op = .inc then Touch.nothing else Touch.flags s.cfg [.zf]).or
      (Touch.flags s.cfg [Config.stepFlag s.cfg])) st := by
  unfold State.stepFlags
  by_cases h : b = true ∧ op = .inc
  · rw [if_pos h]; obtain ⟨rfl, rfl⟩ := h
    exact (changes_stepSecond s .inc v st).mono (fun _ _ h => (Touch.or_eq_false.1 h).2) fun _ h => h
  · rw [if_neg h]
    have : (b && op == .inc) = false := by cases b <;> cases op <;> simp_all
    rw [this]
    exact (changes_setFlag s .zf _ st).comp (changes_stepSecond (s.setFlag .zf (r == 0)) op v st)

/-- What the second flag of INC and DEC is (R260). -/
theorem stepSecond_spec {w : Nat} (s : State) (op : StepOp) (v : BitVec w) :
    (s.cfg.incDecFlag = .hc →
      (s.stepSecond op v).flag .hc = decide (v.toNat % 16 = if op = .inc then 15 else 0)) ∧
    (s.cfg.incDecFlag = .cf →
      (s.stepSecond op v).flag .cf = decide (v = if op = .inc then BitVec.allOnes w else 0)) := by
  unfold State.stepSecond
  constructor
  · intro h; rw [h]; cases op <;> simp <;> rfl
  · intro h; rw [h]; cases op <;> simp <;> rfl

@[simp] theorem stepFlags_pc {w : Nat} (s : State) (op : StepOp) (b : Bool) (v r : BitVec w) :
    (s.stepFlags op b v r).pc = s.pc := by
  unfold State.stepFlags State.stepSecond
  cases (b && op == .inc) <;> (simp only [cond_true, cond_false]; split <;> rfl)

/-- ZF after MUL and DIV: what is left open is free (spec/45_arithmetic.md R300, R302). -/
theorem wideZero_spec (t : State) (a b : Nat) (hb : a = 0 → b = 0) :
    (a = 0 → (t.wideZero a b).flag .zf = true) ∧ (b ≠ 0 → (t.wideZero a b).flag .zf = false) := by
  unfold State.wideZero
  constructor
  · intro h; rw [if_pos h]; simp
  · intro h; rw [if_neg (fun h2 => h (hb h2)), if_neg h]; simp

theorem changes_wideZero (t : State) (a b : Nat) (st : List Word) :
    Changes t (t.wideZero a b) (Touch.flags t.cfg [.zf]) st := by
  unfold State.wideZero
  split
  · exact changes_setFlag _ _ _ _
  · split
    · exact changes_freeFlag _ _ _
    · exact changes_setFlag _ _ _ _

@[simp] theorem wideZero_a (t : State) (a b : Nat) : (t.wideZero a b).a = t.a := by
  unfold State.wideZero; split <;> [rfl; split <;> rfl]

@[simp] theorem wideZero_pc (t : State) (a b : Nat) : (t.wideZero a b).pc = t.pc := by
  unfold State.wideZero; split <;> [rfl; split <;> rfl]

end Sys2Proof.Machine
end

