-- ==== Sys2Proof/Laws/Invariant.lean ====
section
/-! SUPPORT. What no operation changes (the parameters, program memory, the coming events) and what every operation
keeps (the form of data memory), in one relation between the state before and the state after. -/

namespace Sys2Proof.Machine

/-- Data memory is in canonical form and lists bytes only where `DATA_MAP` has RAM. -/
def RamOk (s : State) : Prop := Memory.wf s.ram ∧ ∀ c ∈ s.ram, isRam s.cfg c.1 = true

/-- What an operation leaves alone and what it keeps. -/
structure Keeps (s t : State) : Prop where
  cfg : t.cfg = s.cfg
  rom : t.rom = s.rom
  env : t.env = s.env
  ram : RamOk s → RamOk t

theorem Keeps.refl (s : State) : Keeps s s := ⟨rfl, rfl, rfl, id⟩

theorem Keeps.trans {s t u : State} (h1 : Keeps s t) (h2 : Keeps t u) : Keeps s u :=
  ⟨h2.cfg.trans h1.cfg, h2.rom.trans h1.rom, h2.env.trans h1.env, fun h => h2.ram (h1.ram h)⟩

/-- What leaves data memory alone keeps its form. -/
theorem Keeps.ofRam {s t : State} (hc : t.cfg = s.cfg) (ho : t.rom = s.rom) (hs : t.env = s.env)
    (hm : t.ram = s.ram) : Keeps s t := ⟨hc, ho, hs, fun h => by unfold RamOk; rw [hm, hc]; exact h⟩

/-- The invariant in these terms. -/
theorem inv_iff (s : State) : Machine.Inv s ↔ RamOk s ∧ Memory.sorted s.rom := by
  unfold Machine.Inv RamOk; tauto

/-- What keeps the form of data memory and leaves program memory alone keeps the invariant. -/
theorem Keeps.inv {s t : State} (h : Keeps s t) (hi : Machine.Inv s) : Machine.Inv t := by
  rw [inv_iff] at hi ⊢
  exact ⟨h.ram hi.1, by rw [h.rom]; exact hi.2⟩

theorem keeps_setA (s : State) (v : Word) : Keeps s (s.setA v) := .ofRam rfl rfl rfl rfl
theorem keeps_setAl (s : State) (v : Byte) : Keeps s (s.setAl v) := .ofRam rfl rfl rfl rfl
theorem keeps_setPc (s : State) (v : Word) : Keeps s (s.setPc v) := .ofRam rfl rfl rfl rfl
theorem keeps_setDd (s : State) (b : Bool) : Keeps s (s.setDd b) := .ofRam rfl rfl rfl rfl
theorem keeps_setFlag (s : State) (f : Flag) (b : Bool) : Keeps s (s.setFlag f b) := .ofRam rfl rfl rfl rfl
theorem keeps_setLrb (s : State) (v : Word) : Keeps s (s.setLrb v) := .ofRam rfl rfl rfl rfl
theorem keeps_freeFlag (s : State) (f : Flag) : Keeps s (s.freeFlag f) := .ofRam rfl rfl rfl rfl
theorem keeps_draw (s : State) : Keeps s s.draw.2 := .ofRam rfl rfl rfl rfl
theorem keeps_ssp (s : State) (v : Word) : Keeps s { s with ssp := v } := .ofRam rfl rfl rfl rfl

theorem keeps_setReg (s : State) (r : CpuReg) (v : Word) : Keeps s (s.setReg r v) :=
  .ofRam (s.setReg_cfg r v) (s.setReg_rom r v) (s.setReg_env r v) (s.setReg_ram r v)

theorem keeps_setFlag? (s : State) (f : Flag) (b : Option Bool) : Keeps s (s.setFlag? f b) :=
  .ofRam (s.setFlag?_cfg f b) (s.setFlag?_rom f b) (s.setFlag?_env f b) (s.setFlag?_ram f b)

theorem keeps_aluFlagsB (s : State) (r : AluOut 8) : Keeps s (s.aluFlagsB r) :=
  ((keeps_setFlag s _ _).trans (keeps_setFlag? _ _ _)).trans (keeps_setFlag? _ _ _)

theorem keeps_aluFlagsW (s : State) (r : AluOut 16) : Keeps s (s.aluFlagsW r) := by
  have h := (keeps_setFlag s .zf (r.result == 0#16)).trans (keeps_setFlag? _ .cf r.carry)
  unfold State.aluFlagsW
  cases r.half.isSome
  · exact h
  · exact h.trans (keeps_freeFlag _ _)

/-- A byte write keeps the form of data memory. -/
theorem writeByte_keeps {s t : State} {ea : Word} {v : Byte} (h : writeByte s ea v = .ok t) : Keeps s t := by
  unfold writeByte at h
  cases hp : place s.cfg ea with
  | ram =>
    rw [hp] at h
    obtain rfl := (Except.ok.inj h).symm
    refine ⟨rfl, rfl, rfl, fun hr => ⟨Memory.wf_write ea.isLt hr.1, fun c hc => ?_⟩⟩
    rcases Memory.mem_write hc with h1 | h1
    · show isRam s.cfg c.1 = true
      rw [h1.1]
      simp [isRam, hp]
    · exact hr.2 c h1
  | reg r high =>
    rw [hp] at h
    obtain rfl := (Except.ok.inj h).symm
    exact keeps_setReg _ _ _
  | sfr => rw [hp] at h; cases h
  | absent => rw [hp] at h; cases h

theorem writeWord_keeps {s t : State} {ea v : Word} (h : writeWord s ea v = .ok t) : Keeps s t := by
  obtain ⟨u, h1, h2⟩ := writeWord_cases h
  exact (writeByte_keeps h1).trans (writeByte_keeps h2)

theorem writeW_keeps {s t : State} {l : WLoc} {v : Word} (h : writeW s l v = .ok t) : Keeps s t := by
  cases l with
  | ssp => obtain rfl := (Except.ok.inj h).symm; exact keeps_setReg _ _ _
  | lrb => obtain rfl := (Except.ok.inj h).symm; exact keeps_setReg _ _ _
  | mem ea => exact writeWord_keeps h

theorem writeB_keeps {s t : State} {l : BLoc} {v : Byte} (h : writeB s l v = .ok t) : Keeps s t := by
  cases l with
  | pswh => obtain rfl := (Except.ok.inj h).symm; exact keeps_setReg _ _ _
  | pswl => obtain rfl := (Except.ok.inj h).symm; exact keeps_setReg _ _ _
  | mem ea => exact writeByte_keeps h

theorem storeW_keeps {s t : State} {o : WObj} {v : Word} (h : storeW s o v = .ok t) : Keeps s t := by
  obtain ⟨l, _, h⟩ := Res.bind_eq_ok h
  exact writeW_keeps h

theorem storeB_keeps {s t : State} {o : BObj} {v : Byte} (h : storeB s o v = .ok t) : Keeps s t := by
  obtain ⟨l, _, h⟩ := Res.bind_eq_ok h
  exact writeB_keeps h

theorem writeFlagsW_keeps {s t : State} {l : WLoc} {v : Word} {f : State → State} (hf : ∀ u, Keeps u (f u))
    (h : writeFlagsW s l v f = .ok t) : Keeps s t := by
  unfold writeFlagsW at h
  split at h
  · cases h
  · obtain ⟨u, hu, h⟩ := Res.bind_eq_ok h
    obtain rfl := (Except.ok.inj h).symm
    exact (writeW_keeps hu).trans (hf u)

theorem writeFlagsB_keeps {s t : State} {l : BLoc} {v : Byte} {f : State → State} (hf : ∀ u, Keeps u (f u))
    (h : writeFlagsB s l v f = .ok t) : Keeps s t := by
  unfold writeFlagsB at h
  split at h
  · cases h
  · obtain ⟨u, hu, h⟩ := Res.bind_eq_ok h
    obtain rfl := (Except.ok.inj h).symm
    exact (writeB_keeps hu).trans (hf u)

theorem push16_keeps {s t : State} {v : Word} (h : push16 v s = .ok t) : Keeps s t := by
  unfold push16 at h
  split at h
  · obtain ⟨u, hu, h⟩ := Res.bind_eq_ok h
    obtain rfl := (Except.ok.inj h).symm
    exact (writeWord_keeps hu).trans (keeps_ssp _ _)
  · cases h

theorem pop16_keeps {s t : State} {v : Word} (h : pop16 s = .ok (v, t)) : Keeps s t := by
  obtain ⟨_, _, rfl⟩ := pop16_cases h
  exact keeps_ssp _ _

/-- Reset processing leaves data memory in canonical form, kept or not (spec/70_reset_and_hazards.md R492). -/
theorem resetProcessing_keeps (s : State) : Keeps s (resetProcessing s) := by
  refine ⟨rfl, rfl, rfl, fun h => ?_⟩
  unfold RamOk
  rw [resetProcessing_cfg, resetProcessing_ram]
  cases s.cfg.resetKeepsRam
  · exact ⟨Memory.wf_ofCells _ _, fun c hc => (Memory.mem_ofCells hc).1⟩
  · exact h

theorem takeReset_keeps {s t : State} {c : ResetCause} (h : takeReset c s = .ok t) : Keeps s t := by
  obtain ⟨v, _, rfl⟩ := takeReset_cases h
  exact (resetProcessing_keeps s).trans (keeps_setPc _ _)

theorem takeInterrupt_keeps {s t : State} {src : IntSource} (h : takeInterrupt src s = .ok t) : Keeps s t := by
  obtain ⟨s1, h1, h⟩ := Res.bind_eq_ok h
  obtain ⟨s2, h2, h⟩ := Res.bind_eq_ok h
  obtain ⟨s3, h3, h⟩ := Res.bind_eq_ok h
  obtain ⟨s4, h4, h⟩ := Res.bind_eq_ok h
  obtain ⟨v, _, h⟩ := Res.bind_eq_ok h
  obtain rfl := (Except.ok.inj h).symm
  exact ((((push16_keeps h1).trans (push16_keeps h2)).trans (push16_keeps h3)).trans (push16_keeps h4)).trans
    (keeps_setPc _ _)

theorem takeEvent_keeps {s t : State} {e : Event} (h : takeEvent e s = .ok t) : Keeps s t := by
  cases e with
  | watchdog => exact takeReset_keeps h
  | interrupt src => exact takeInterrupt_keeps h

/-- An instruction whose operation keeps the form keeps it. -/
theorem finish_keeps {s t : State} {n : Nat} {r : Res State} (hr : ∀ u, r = .ok u → Keeps s u)
    (h : finish n r = .next t) : Keeps s t := by
  obtain ⟨u, hu, _, rfl⟩ := finish_cases h
  exact (hr u hu).trans (keeps_setPc _ _)

/-- An outcome whose operation keeps the form keeps it. -/
theorem outcome_keeps {s t : State} {r : Res State} (hr : ∀ u, r = .ok u → Keeps s u)
    (h : outcome r = .next t) : Keeps s t := hr t (outcome_next h)

end Sys2Proof.Machine
end

