-- ==== Sys2Proof/Laws/Operands.lean ====
section
/-! SUPPORT. Laws of the operands: where the registers and objects lie as numbers, what a data address that shows a CPU
register reads, and the targets of jumps. -/

namespace Sys2Proof.Machine

/-! Addresses as numbers. -/

/-- `lrbase` is eight times LRB (spec/10_state.md R40). -/
theorem lrBase_toNat (s : State) : (lrBase s).toNat = s.lrb.toNat * 8 := by
  unfold lrBase
  rw [BitVec.toNat_shiftLeft, Nat.shiftLeft_eq]
  have : s.lrbWord.toNat = s.lrb.toNat := by
    unfold State.lrbWord; rw [BitVec.toNat_setWidth]; have := s.lrb.isLt; omega
  rw [this]; have := s.lrb.isLt; omega

theorem rAddr_toNat (s : State) (n : BitVec 3) : (rAddr s n).toNat = s.lrb.toNat * 8 + n.toNat := by
  unfold rAddr
  rw [BitVec.toNat_add, lrBase_toNat, BitVec.toNat_setWidth]
  have := s.lrb.isLt; have := n.isLt; omega

theorem erAddr_toNat (s : State) (n : BitVec 2) : (erAddr s n).toNat = s.lrb.toNat * 8 + 2 * n.toNat := by
  unfold erAddr
  rw [BitVec.toNat_add, BitVec.toNat_mul, lrBase_toNat, BitVec.toNat_setWidth]
  have := s.lrb.isLt; have := n.isLt
  show (_ + 2 * _ % 65536) % 65536 = _
  omega

theorem ptrAddr_toNat (s : State) (p : Ptr) :
    (ptrAddr s p).toNat = 0x80 + 8 * s.scb.toNat + p.offset.toNat := by
  have : s.scb.toNat < 8 := s.scb.isLt
  unfold ptrAddr
  have hp : p.offset.toNat ≤ 6 := by cases p <;> decide
  rw [BitVec.toNat_add, BitVec.toNat_add, BitVec.toNat_mul, BitVec.toNat_setWidth]
  show (((128 % _) + 8 * (s.scb.toNat % 65536) % 65536) % 65536 + _) % 65536 = _
  omega

theorem mkWord_toNat (h l : Byte) : (mkWord h l).toNat = h.toNat * 256 + l.toNat := by
  unfold mkWord
  rw [BitVec.toNat_append, ← Nat.shiftLeft_add_eq_or_of_lt l.isLt, Nat.shiftLeft_eq]

theorem lrb_page_toNat (s : State) : (s.lrb.extractLsb' 5 8).toNat = s.lrb.toNat / 32 := by
  rw [BitVec.extractLsb'_toNat, Nat.shiftRight_eq_div_pow]; have := s.lrb.isLt; omega

/-- Two words at addresses of different words have no byte in common. -/
theorem word_bytes_apart {x y : Word} (h : x.toNat / 2 ≠ y.toNat / 2) :
    ∀ ea ∈ (WLoc.mem x).bytes, ea ∉ (WLoc.mem y).bytes := by
  intro ea h1 h2
  simp only [WLoc.bytes, List.mem_cons, List.not_mem_nil, or_false] at h1 h2
  rcases h1 with h1 | h1 <;> rcases h2 with h2 | h2 <;> (have hh := congrArg BitVec.toNat (h1.symm.trans h2)) <;>
    (simp only [evenAddr_toNat, evenAddr_succ_toNat] at hh; omega)

/-! Data addresses that show a CPU register. -/

/-- A word there reads as the register. -/
theorem readWord_reg {s : State} {ea : Word} {r : CpuReg} (h : regAt s.cfg ea = some r) :
    readWord s ea = .ok (s.reg r) := by
  have h1 : regAt s.cfg (evenAddr ea) = some r := by rw [regAt_even]; exact h
  have h2 : regAt s.cfg (evenAddr ea + 1) = some r := by rw [regAt_succ]; exact h
  rw [readWord_eq (readByte_reg h1) (readByte_reg h2), evenAddr_bit, evenAddr_succ_bit]
  exact congrArg Except.ok (mkWord_bytes _)

/-- The admitted register addresses are even and below 0080H (spec/10_state.md R36). -/
theorem legalConfig.addr {c : Config} (h : legalConfig c) {a : Word}
    (ha : some a ∈ [c.addrSsp, c.addrLrb, c.addrPsw, c.addrAcc]) : a.toNat < 0x80 ∧ a.toNat % 2 = 0 := by
  have h1 := h.2.1
  simp only [registerAddrsLegal, Bool.and_eq_true, List.all_eq_true, decide_eq_true_eq, beq_iff_eq] at h1
  exact h1.1 a (List.mem_filterMap.2 ⟨_, ha, rfl⟩)

/-- No CPU register lies at or above 0080H. -/
theorem legalConfig.regAt_none {c : Config} (h : legalConfig c) {a : Word} (ha : 0x80 ≤ a.toNat) :
    regAt c a = none := by
  have he : 0x80 ≤ (evenAddr a).toNat := by rw [evenAddr_toNat]; omega
  have key : ∀ x, x ∈ [c.addrSsp, c.addrLrb, c.addrPsw, c.addrAcc] → x ≠ some (evenAddr a) := by
    rintro x hx rfl
    have := (h.addr hx).1
    omega
  unfold regAt
  rw [if_neg (key _ (by simp)), if_neg (key _ (by simp)), if_neg (key _ (by simp)), if_neg (key _ (by simp))]

/-- The place a register lies at is one of its parameters. -/
theorem regAt_cases {c : Config} {a : Word} {r : CpuReg} (h : regAt c a = some r) :
    (r = .ssp ∧ c.addrSsp = some (evenAddr a)) ∨ (r = .lrb ∧ c.addrLrb = some (evenAddr a)) ∨
    (r = .psw ∧ c.addrPsw = some (evenAddr a)) ∨ (r = .acc ∧ c.addrAcc = some (evenAddr a)) := by
  unfold regAt at h
  split at h
  · next h1 => cases h; exact .inl ⟨rfl, h1⟩
  · split at h
    · next h1 => cases h; exact .inr (.inl ⟨rfl, h1⟩)
    · split at h
      · next h1 => cases h; exact .inr (.inr (.inl ⟨rfl, h1⟩))
      · split at h
        · next h1 => cases h; exact .inr (.inr (.inr ⟨rfl, h1⟩))
        · cases h

/-- One register does not lie at two words. -/
theorem regAt_apart {c : Config} {a b : Word} {r : CpuReg} (ha : regAt c a = some r) (hb : regAt c b = some r) :
    evenAddr a = evenAddr b := by
  have h1 := regAt_cases ha
  have h2 := regAt_cases hb
  rcases h1 with ⟨rfl, h1⟩ | ⟨rfl, h1⟩ | ⟨rfl, h1⟩ | ⟨rfl, h1⟩ <;> simp at h2 <;>
    exact Option.some.inj (h1.symm.trans h2)

/-- A word location that is not A reads the same after A is written. -/
theorem readW_setA {t : State} {l : WLoc} (v : Word) (h : ∀ ea, l = .mem ea → regAt t.cfg ea ≠ some .acc) :
    readW (t.setA v) l = readW t l := by
  refine readW_of_changes (changes_setA t v []) (fun _ _ h => by cases h) fun r k hk => ?_
  cases l with
  | ssp => cases r <;> first | rfl | cases hk
  | lrb => cases r <;> first | rfl | cases hk
  | mem ea =>
    cases r <;> first | rfl | skip
    simp only [WLoc.touches] at hk
    have := h ea rfl
    cases hr : regAt t.cfg ea with
    | none => rw [hr] at hk; cases hk
    | some q => rw [hr] at hk; cases q <;> first | exact absurd hr this | cases hk

/-- A byte location that is not in A reads the same after A is written. -/
theorem readB_setA {t : State} {l : BLoc} (v : Word) (h : ∀ ea, l = .mem ea → regAt t.cfg ea ≠ some .acc) :
    readB (t.setA v) l = readB t l := by
  refine readB_of_changes (changes_setA t v []) (fun _ _ h => by cases h) fun r k hk => ?_
  cases l with
  | pswh => cases r <;> first | rfl | cases hk
  | pswl => cases r <;> first | rfl | cases hk
  | mem ea =>
    cases r <;> first | rfl | skip
    simp only [BLoc.touches] at hk
    have := h ea rfl
    cases hr : regAt t.cfg ea with
    | none => rw [hr] at hk; cases hk
    | some q => rw [hr] at hk; cases q <;> first | exact absurd hr this | cases hk

/-! Targets and sums. -/

/-- A relative target in range is the sum (spec/30_encoding.md R104). -/
theorem relTarget_ok {s : State} {n : Nat} {rel : Byte} {t : Word} (h : (t.toNat : Int) = s.pc.toNat + n + rel.toInt) :
    relTarget s n rel = .ok t := by
  unfold relTarget
  have := t.isLt
  simp only [← h]
  rw [if_pos (by omega)]
  congr 1; apply BitVec.eq_of_toNat_eq; rw [BitVec.toNat_ofInt]; omega

/-- A relative target out of range is refused. -/
theorem relTarget_refused {s : State} {n : Nat} {rel : Byte}
    (h : (s.pc.toNat : Int) + n + rel.toInt < 0 ∨ 0xFFFF < (s.pc.toNat : Int) + n + rel.toInt) :
    relTarget s n rel = refuse .targetOutOfRange := by
  unfold relTarget
  simp only []
  rw [if_neg (by omega)]

theorem returnAddress_ok {s : State} {n : Nat} (h : s.pc.toNat + n ≤ 0xFFFF) :
    returnAddress s n = .ok (s.pc + BitVec.ofNat 16 n) := if_pos h

/-- `±N8[USP]` with a sum in range (spec/30_encoding.md R119). -/
theorem displaced_ok {p ea : Word} {n : Byte} (h : (ea.toNat : Int) = p.toNat + n.toInt) : displaced p n = .ok ea := by
  unfold displaced
  have := ea.isLt
  simp only [← h]
  rw [if_pos (by omega)]
  congr 1; apply BitVec.eq_of_toNat_eq; rw [BitVec.toNat_ofInt]; omega

/-- `±N8[USP]` with a sum out of range is refused. -/
theorem displaced_refused {p : Word} {n : Byte} (h : (p.toNat : Int) + n.toInt < 0 ∨ 0xFFFF < (p.toNat : Int) + n.toInt) :
    displaced p n = refuse .displacementOutOfRange := by
  unfold displaced
  simp only []
  rw [if_neg (by omega)]

/-- The low half of a register number that fits two bits names that word register (spec/30_encoding.md R108). -/
theorem wordRegister_setWidth : ∀ e : BitVec 2, wordRegister (e.setWidth 3) = .ok e := by decide

end Sys2Proof.Machine
end

