-- ==== Sys2Proof/Laws/PerInstr.lean ====
section
/-! SUPPORT. The per-instruction family EncodedLength: every instruction's code has 1 to 6 bytes (spec/30_encoding.md
R100). One lemma per constructor. -/

set_option Elab.async false

namespace Sys2Proof.Laws

/-- The code of the instruction, where its parameters give it one, has 1 to 6 bytes (R100). -/
def EncodedLength.Statement (i : Instr) : Prop :=
  ∀ (ops : Opcodes) (bs : List Byte), encode ops i = some bs → 1 ≤ bs.length ∧ bs.length ≤ 6

/-- A code of known length. -/
theorem EncodedLength.ofLength {i : Instr} {n : Nat} (hn : 1 ≤ n ∧ n ≤ 6)
    (h : ∀ (ops : Opcodes) (bs : List Byte), encode ops i = some bs → bs.length = n) : EncodedLength.Statement i :=
  fun ops bs he => by rw [h ops bs he]; exact hn

/-- A code that is a word prefix and at most three bytes more. -/
theorem EncodedLength.wordPrefix {i : Instr} {o : WObj} {xs : List Byte} (hx : xs.length ≤ 3)
    (h : ∀ ops : Opcodes, encode ops i = some (o.prefixBytes ++ xs)) : EncodedLength.Statement i := fun ops bs he => by
  rw [h ops] at he
  cases he
  have := o.prefixLen_bounds
  rw [List.length_append, WObj.prefixBytes_length]
  omega

/-- A code that is a byte prefix and at most three bytes more. -/
theorem EncodedLength.bytePrefix {i : Instr} {o : BObj} {xs : List Byte} (hx : xs.length ≤ 3)
    (h : ∀ ops : Opcodes, encode ops i = some (o.prefixBytes ++ xs)) : EncodedLength.Statement i := fun ops bs he => by
  rw [h ops] at he
  cases he
  have := o.prefixLen_bounds
  rw [List.length_append, BObj.prefixBytes_length]
  omega


theorem EncodedLength.lImm (n : Word) : EncodedLength.Statement (.lImm n) :=
  EncodedLength.ofLength (n := 3) (by decide) fun _ _ h => by cases h; rfl

theorem EncodedLength.lEr (r : BitVec 2) : EncodedLength.Statement (.lEr r) :=
  EncodedLength.ofLength (n := 1) (by decide) fun _ _ h => by cases h; rfl

theorem EncodedLength.lX1Ind (n : Word) : EncodedLength.Statement (.lX1Ind n) :=
  EncodedLength.ofLength (n := 3) (by decide) fun _ _ h => by cases h; rfl

theorem EncodedLength.lX2Ind (n : Word) : EncodedLength.Statement (.lX2Ind n) :=
  EncodedLength.ofLength (n := 3) (by decide) fun _ _ h => by cases h; rfl

theorem EncodedLength.lUspInd (n : Byte) : EncodedLength.Statement (.lUspInd n) :=
  EncodedLength.ofLength (n := 2) (by decide) fun _ _ h => by cases h; rfl

theorem EncodedLength.lOff (n : Byte) : EncodedLength.Statement (.lOff n) :=
  EncodedLength.ofLength (n := 2) (by decide) fun _ _ h => by cases h; rfl

theorem EncodedLength.lZp (n : Byte) : EncodedLength.Statement (.lZp n) :=
  EncodedLength.ofLength (n := 2) (by decide) fun _ _ h => by cases h; rfl

theorem EncodedLength.lbImm (n : Byte) : EncodedLength.Statement (.lbImm n) :=
  EncodedLength.ofLength (n := 2) (by decide) fun _ _ h => by cases h; rfl

theorem EncodedLength.lbR (r : BitVec 3) : EncodedLength.Statement (.lbR r) :=
  EncodedLength.ofLength (n := 1) (by decide) fun _ _ h => by cases h; rfl

theorem EncodedLength.lbX1Ind (n : Word) : EncodedLength.Statement (.lbX1Ind n) :=
  EncodedLength.ofLength (n := 3) (by decide) fun _ _ h => by cases h; rfl

theorem EncodedLength.lbX2Ind (n : Word) : EncodedLength.Statement (.lbX2Ind n) :=
  EncodedLength.ofLength (n := 3) (by decide) fun _ _ h => by cases h; rfl

theorem EncodedLength.lbUspInd (n : Byte) : EncodedLength.Statement (.lbUspInd n) :=
  EncodedLength.ofLength (n := 2) (by decide) fun _ _ h => by cases h; rfl

theorem EncodedLength.lbOff (n : Byte) : EncodedLength.Statement (.lbOff n) :=
  EncodedLength.ofLength (n := 2) (by decide) fun _ _ h => by cases h; rfl

theorem EncodedLength.lbZp (n : Byte) : EncodedLength.Statement (.lbZp n) :=
  EncodedLength.ofLength (n := 2) (by decide) fun _ _ h => by cases h; rfl

theorem EncodedLength.stEr (r : BitVec 2) : EncodedLength.Statement (.stEr r) :=
  EncodedLength.ofLength (n := 1) (by decide) fun _ _ h => by cases h; rfl

theorem EncodedLength.stbR (r : BitVec 3) : EncodedLength.Statement (.stbR r) :=
  EncodedLength.ofLength (n := 1) (by decide) fun _ _ h => by cases h; rfl

theorem EncodedLength.stX1Ind (n : Word) : EncodedLength.Statement (.stX1Ind n) :=
  EncodedLength.ofLength (n := 3) (by decide) fun _ _ h => by cases h; rfl

theorem EncodedLength.stbX1Ind (n : Word) : EncodedLength.Statement (.stbX1Ind n) :=
  EncodedLength.ofLength (n := 3) (by decide) fun _ _ h => by cases h; rfl

theorem EncodedLength.stX2Ind (n : Word) : EncodedLength.Statement (.stX2Ind n) :=
  EncodedLength.ofLength (n := 3) (by decide) fun _ _ h => by cases h; rfl

theorem EncodedLength.stbX2Ind (n : Word) : EncodedLength.Statement (.stbX2Ind n) :=
  EncodedLength.ofLength (n := 3) (by decide) fun _ _ h => by cases h; rfl

theorem EncodedLength.stUspInd (n : Byte) : EncodedLength.Statement (.stUspInd n) :=
  EncodedLength.ofLength (n := 2) (by decide) fun _ _ h => by cases h; rfl

theorem EncodedLength.stbUspInd (n : Byte) : EncodedLength.Statement (.stbUspInd n) :=
  EncodedLength.ofLength (n := 2) (by decide) fun _ _ h => by cases h; rfl

theorem EncodedLength.stOff (n : Byte) : EncodedLength.Statement (.stOff n) :=
  EncodedLength.ofLength (n := 2) (by decide) fun _ _ h => by cases h; rfl

theorem EncodedLength.stbOff (n : Byte) : EncodedLength.Statement (.stbOff n) :=
  EncodedLength.ofLength (n := 2) (by decide) fun _ _ h => by cases h; rfl

theorem EncodedLength.stZp (n : Byte) : EncodedLength.Statement (.stZp n) :=
  EncodedLength.ofLength (n := 2) (by decide) fun _ _ h => by cases h; rfl

theorem EncodedLength.stbZp (n : Byte) : EncodedLength.Statement (.stbZp n) :=
  EncodedLength.ofLength (n := 2) (by decide) fun _ _ h => by cases h; rfl

theorem EncodedLength.movAObj (o : WObj) : EncodedLength.Statement (.movAObj o) :=
  EncodedLength.wordPrefix (o := o) (xs := [0x99#8]) (by simp)
    fun _ => rfl

theorem EncodedLength.movObjA (o : WObj) : EncodedLength.Statement (.movObjA o) :=
  EncodedLength.wordPrefix (o := o) (xs := [0x8A#8]) (by simp)
    fun _ => rfl

theorem EncodedLength.movX1Imm (n : Word) : EncodedLength.Statement (.movX1Imm n) :=
  EncodedLength.ofLength (n := 3) (by decide) fun _ _ h => by cases h; rfl

theorem EncodedLength.movX2Imm (n : Word) : EncodedLength.Statement (.movX2Imm n) :=
  EncodedLength.ofLength (n := 3) (by decide) fun _ _ h => by cases h; rfl

theorem EncodedLength.movDpImm (n : Word) : EncodedLength.Statement (.movDpImm n) :=
  EncodedLength.ofLength (n := 3) (by decide) fun _ _ h => by cases h; rfl

theorem EncodedLength.movLrbImm (n : Word) : EncodedLength.Statement (.movLrbImm n) :=
  EncodedLength.ofLength (n := 3) (by decide) fun _ _ h => by cases h; rfl

theorem EncodedLength.movObjImm (o : WObj) (n : Word) : EncodedLength.Statement (.movObjImm o n) :=
  EncodedLength.wordPrefix (o := o) (xs := [0x98#8] ++ wordBytes n) (by simp)
    fun _ => congrArg some (List.append_assoc _ _ _)

theorem EncodedLength.movX1Obj (o : WObj) : EncodedLength.Statement (.movX1Obj o) :=
  EncodedLength.wordPrefix (o := o) (xs := [0x78#8]) (by simp)
    fun _ => rfl

theorem EncodedLength.movX2Obj (o : WObj) : EncodedLength.Statement (.movX2Obj o) :=
  EncodedLength.wordPrefix (o := o) (xs := [0x79#8]) (by simp)
    fun _ => rfl

theorem EncodedLength.movDpObj (o : WObj) : EncodedLength.Statement (.movDpObj o) :=
  EncodedLength.wordPrefix (o := o) (xs := [0x7A#8]) (by simp)
    fun _ => rfl

theorem EncodedLength.movUspObj (o : WObj) : EncodedLength.Statement (.movUspObj o) :=
  EncodedLength.wordPrefix (o := o) (xs := [0x7B#8]) (by simp)
    fun _ => rfl

theorem EncodedLength.movSspObj (o : WObj) : EncodedLength.Statement (.movSspObj o) :=
  EncodedLength.wordPrefix (o := o) (xs := [0x7E#8]) (by simp)
    fun _ => rfl

theorem EncodedLength.movLrbObj (o : WObj) : EncodedLength.Statement (.movLrbObj o) :=
  EncodedLength.wordPrefix (o := o) (xs := [0x7F#8]) (by simp)
    fun _ => rfl

theorem EncodedLength.movErObj (r : BitVec 2) (o : WObj) : EncodedLength.Statement (.movErObj r o) :=
  EncodedLength.wordPrefix (o := o) (xs := [0x48#8 ||| r.setWidth 8]) (by simp)
    fun _ => rfl

theorem EncodedLength.movOffObj (n : Byte) (o : WObj) : EncodedLength.Statement (.movOffObj n o) :=
  EncodedLength.wordPrefix (o := o) (xs := [0x7C#8, n]) (by simp)
    fun _ => rfl

theorem EncodedLength.movPswObj (o : WObj) : EncodedLength.Statement (.movPswObj o) :=
  EncodedLength.wordPrefix (o := o) (xs := [0x7D#8]) (by simp)
    fun _ => rfl

theorem EncodedLength.movbAObj (o : BObj) : EncodedLength.Statement (.movbAObj o) :=
  EncodedLength.bytePrefix (o := o) (xs := [0x99#8]) (by simp)
    fun _ => rfl

theorem EncodedLength.movbObjA (o : BObj) : EncodedLength.Statement (.movbObjA o) :=
  EncodedLength.bytePrefix (o := o) (xs := [0x8A#8]) (by simp)
    fun _ => rfl

theorem EncodedLength.movbRImm (r : BitVec 3) (n : Byte) : EncodedLength.Statement (.movbRImm r n) :=
  EncodedLength.ofLength (n := 2) (by decide) fun _ _ h => by cases h; rfl

theorem EncodedLength.movbObjImm (o : BObj) (n : Byte) : EncodedLength.Statement (.movbObjImm o n) :=
  EncodedLength.bytePrefix (o := o) (xs := [0x98#8, n]) (by simp)
    fun _ => rfl

theorem EncodedLength.movbRObj (r : BitVec 3) (o : BObj) : EncodedLength.Statement (.movbRObj r o) :=
  EncodedLength.bytePrefix (o := o) (xs := [0x48#8 ||| r.setWidth 8]) (by simp)
    fun _ => rfl

theorem EncodedLength.movbOffObj (n : Byte) (o : BObj) : EncodedLength.Statement (.movbOffObj n o) :=
  EncodedLength.bytePrefix (o := o) (xs := [0x7C#8, n]) (by simp)
    fun _ => rfl

theorem EncodedLength.movbPswhObj (o : BObj) : EncodedLength.Statement (.movbPswhObj o) :=
  EncodedLength.bytePrefix (o := o) (xs := [0x89#8]) (by simp)
    fun _ => rfl

theorem EncodedLength.movbPswlObj (o : BObj) : EncodedLength.Statement (.movbPswlObj o) :=
  EncodedLength.bytePrefix (o := o) (xs := [0x88#8]) (by simp)
    fun _ => rfl

theorem EncodedLength.clrObj (o : WObj) : EncodedLength.Statement (.clrObj o) :=
  EncodedLength.wordPrefix (o := o) (xs := [0x15#8]) (by simp)
    fun _ => rfl

theorem EncodedLength.clrbObj (o : BObj) : EncodedLength.Statement (.clrbObj o) :=
  EncodedLength.bytePrefix (o := o) (xs := [0x15#8]) (by simp)
    fun _ => rfl

theorem EncodedLength.xchgAObj (o : WObj) : EncodedLength.Statement (.xchgAObj o) :=
  EncodedLength.wordPrefix (o := o) (xs := [0x10#8]) (by simp)
    fun _ => rfl

theorem EncodedLength.xchgbAObj (o : BObj) : EncodedLength.Statement (.xchgbAObj o) :=
  EncodedLength.bytePrefix (o := o) (xs := [0x10#8]) (by simp)
    fun _ => rfl

theorem EncodedLength.xnblAOff (n : Byte) : EncodedLength.Statement (.xnblAOff n) :=
  EncodedLength.ofLength (n := 2) (by decide) fun _ _ h => by cases h; rfl

theorem EncodedLength.rolObj (o : WObj) : EncodedLength.Statement (.rolObj o) :=
  EncodedLength.wordPrefix (o := o) (xs := [0xB7#8]) (by simp)
    fun _ => rfl

theorem EncodedLength.rolbObj (o : BObj) : EncodedLength.Statement (.rolbObj o) :=
  EncodedLength.bytePrefix (o := o) (xs := [0xB7#8]) (by simp)
    fun _ => rfl

theorem EncodedLength.rorObj (o : WObj) : EncodedLength.Statement (.rorObj o) :=
  EncodedLength.wordPrefix (o := o) (xs := [0xC7#8]) (by simp)
    fun _ => rfl

theorem EncodedLength.rorbObj (o : BObj) : EncodedLength.Statement (.rorbObj o) :=
  EncodedLength.bytePrefix (o := o) (xs := [0xC7#8]) (by simp)
    fun _ => rfl

theorem EncodedLength.sllObj (o : WObj) : EncodedLength.Statement (.sllObj o) :=
  EncodedLength.wordPrefix (o := o) (xs := [0xD7#8]) (by simp)
    fun _ => rfl

theorem EncodedLength.sllbObj (o : BObj) : EncodedLength.Statement (.sllbObj o) :=
  EncodedLength.bytePrefix (o := o) (xs := [0xD7#8]) (by simp)
    fun _ => rfl

theorem EncodedLength.srlObj (o : WObj) : EncodedLength.Statement (.srlObj o) :=
  EncodedLength.wordPrefix (o := o) (xs := [0xE7#8]) (by simp)
    fun _ => rfl

theorem EncodedLength.srlbObj (o : BObj) : EncodedLength.Statement (.srlbObj o) :=
  EncodedLength.bytePrefix (o := o) (xs := [0xE7#8]) (by simp)
    fun _ => rfl

theorem EncodedLength.sraObj (o : WObj) : EncodedLength.Statement (.sraObj o) :=
  EncodedLength.wordPrefix (o := o) (xs := [0xF7#8]) (by simp)
    fun _ => rfl

theorem EncodedLength.srabObj (o : BObj) : EncodedLength.Statement (.srabObj o) :=
  EncodedLength.bytePrefix (o := o) (xs := [0xF7#8]) (by simp)
    fun _ => rfl

theorem EncodedLength.incObj (o : WObj) : EncodedLength.Statement (.incObj o) :=
  EncodedLength.wordPrefix (o := o) (xs := [0x16#8]) (by simp)
    fun _ => rfl

theorem EncodedLength.incbR (r : BitVec 3) : EncodedLength.Statement (.incbR r) :=
  EncodedLength.ofLength (n := 1) (by decide) fun _ _ h => by cases h; rfl

theorem EncodedLength.incbObj (o : BObj) : EncodedLength.Statement (.incbObj o) :=
  EncodedLength.bytePrefix (o := o) (xs := [0x16#8]) (by simp)
    fun _ => rfl

theorem EncodedLength.decObj (o : WObj) : EncodedLength.Statement (.decObj o) :=
  EncodedLength.wordPrefix (o := o) (xs := [0x17#8]) (by simp)
    fun _ => rfl

theorem EncodedLength.decbR (r : BitVec 3) : EncodedLength.Statement (.decbR r) :=
  EncodedLength.ofLength (n := 1) (by decide) fun _ _ h => by cases h; rfl

theorem EncodedLength.decbObj (o : BObj) : EncodedLength.Statement (.decbObj o) :=
  EncodedLength.bytePrefix (o := o) (xs := [0x17#8]) (by simp)
    fun _ => rfl

theorem EncodedLength.lcDirect (n : Word) : EncodedLength.Statement (.lcDirect n) :=
  EncodedLength.ofLength (n := 4) (by decide) fun _ _ h => by cases h; rfl

theorem EncodedLength.lcInd (o : WObj) : EncodedLength.Statement (.lcInd o) :=
  EncodedLength.wordPrefix (o := o) (xs := [0xA8#8]) (by simp)
    fun _ => rfl

theorem EncodedLength.lcBased (o : WObj) (n : Word) : EncodedLength.Statement (.lcBased o n) :=
  EncodedLength.wordPrefix (o := o) (xs := [0xA9#8] ++ wordBytes n) (by simp)
    fun _ => congrArg some (List.append_assoc _ _ _)

theorem EncodedLength.lcbDirect (n : Word) : EncodedLength.Statement (.lcbDirect n) :=
  EncodedLength.ofLength (n := 4) (by decide) fun _ _ h => by cases h; rfl

theorem EncodedLength.lcbInd (o : WObj) : EncodedLength.Statement (.lcbInd o) :=
  EncodedLength.wordPrefix (o := o) (xs := [0xAA#8]) (by simp)
    fun _ => rfl

theorem EncodedLength.lcbBased (o : WObj) (n : Word) : EncodedLength.Statement (.lcbBased o n) :=
  EncodedLength.wordPrefix (o := o) (xs := [0xAB#8] ++ wordBytes n) (by simp)
    fun _ => congrArg some (List.append_assoc _ _ _)

theorem EncodedLength.cmpcDirect (n : Word) : EncodedLength.Statement (.cmpcDirect n) :=
  EncodedLength.ofLength (n := 4) (by decide) fun _ _ h => by cases h; rfl

theorem EncodedLength.cmpcInd (o : WObj) : EncodedLength.Statement (.cmpcInd o) :=
  EncodedLength.wordPrefix (o := o) (xs := [0xAC#8]) (by simp)
    fun _ => rfl

theorem EncodedLength.cmpcBased (o : WObj) (n : Word) : EncodedLength.Statement (.cmpcBased o n) :=
  EncodedLength.wordPrefix (o := o) (xs := [0xAD#8] ++ wordBytes n) (by simp)
    fun _ => congrArg some (List.append_assoc _ _ _)

theorem EncodedLength.cmpcbDirect (n : Word) : EncodedLength.Statement (.cmpcbDirect n) :=
  EncodedLength.ofLength (n := 4) (by decide) fun _ _ h => by cases h; rfl

theorem EncodedLength.cmpcbInd (o : WObj) : EncodedLength.Statement (.cmpcbInd o) :=
  EncodedLength.wordPrefix (o := o) (xs := [0xAE#8]) (by simp)
    fun _ => rfl

theorem EncodedLength.cmpcbBased (o : WObj) (n : Word) : EncodedLength.Statement (.cmpcbBased o n) :=
  EncodedLength.wordPrefix (o := o) (xs := [0xAF#8] ++ wordBytes n) (by simp)
    fun _ => congrArg some (List.append_assoc _ _ _)

theorem EncodedLength.addAImm (n : Word) : EncodedLength.Statement (.addAImm n) :=
  EncodedLength.ofLength (n := 3) (by decide) fun _ _ h => by cases h; rfl

theorem EncodedLength.addbAImm (n : Byte) : EncodedLength.Statement (.addbAImm n) :=
  EncodedLength.ofLength (n := 2) (by decide) fun _ _ h => by cases h; rfl

theorem EncodedLength.addAEr (r : BitVec 2) : EncodedLength.Statement (.addAEr r) :=
  EncodedLength.ofLength (n := 1) (by decide) fun _ _ h => by cases h; rfl

theorem EncodedLength.addbAR (r : BitVec 3) : EncodedLength.Statement (.addbAR r) :=
  EncodedLength.ofLength (n := 1) (by decide) fun _ _ h => by cases h; rfl

theorem EncodedLength.addAOff (n : Byte) : EncodedLength.Statement (.addAOff n) :=
  EncodedLength.ofLength (n := 2) (by decide) fun _ _ h => by cases h; rfl

theorem EncodedLength.addbAOff (n : Byte) : EncodedLength.Statement (.addbAOff n) :=
  EncodedLength.ofLength (n := 2) (by decide) fun _ _ h => by cases h; rfl

theorem EncodedLength.addAObj (o : WObj) : EncodedLength.Statement (.addAObj o) :=
  EncodedLength.wordPrefix (o := o) (xs := [0x82#8]) (by simp)
    fun _ => rfl

theorem EncodedLength.addbAObj (o : BObj) : EncodedLength.Statement (.addbAObj o) :=
  EncodedLength.bytePrefix (o := o) (xs := [0x82#8]) (by simp)
    fun _ => rfl

theorem EncodedLength.addObjA (o : WObj) : EncodedLength.Statement (.addObjA o) :=
  EncodedLength.wordPrefix (o := o) (xs := [0x81#8]) (by simp)
    fun _ => rfl

theorem EncodedLength.addbObjA (o : BObj) : EncodedLength.Statement (.addbObjA o) :=
  EncodedLength.bytePrefix (o := o) (xs := [0x81#8]) (by simp)
    fun _ => rfl

theorem EncodedLength.addObjOff (o : WObj) (n : Byte) : EncodedLength.Statement (.addObjOff o n) :=
  EncodedLength.wordPrefix (o := o) (xs := [0x83#8, n]) (by simp)
    fun _ => rfl

theorem EncodedLength.addbObjOff (o : BObj) (n : Byte) : EncodedLength.Statement (.addbObjOff o n) :=
  EncodedLength.bytePrefix (o := o) (xs := [0x83#8, n]) (by simp)
    fun _ => rfl

theorem EncodedLength.addObjImm (o : WObj) (n : Word) : EncodedLength.Statement (.addObjImm o n) :=
  EncodedLength.wordPrefix (o := o) (xs := [0x80#8] ++ wordBytes n) (by simp)
    fun _ => congrArg some (List.append_assoc _ _ _)

theorem EncodedLength.addbObjImm (o : BObj) (n : Byte) : EncodedLength.Statement (.addbObjImm o n) :=
  EncodedLength.bytePrefix (o := o) (xs := [0x80#8, n]) (by simp)
    fun _ => rfl

theorem EncodedLength.adcAImm (n : Word) : EncodedLength.Statement (.adcAImm n) :=
  EncodedLength.ofLength (n := 3) (by decide) fun _ _ h => by cases h; rfl

theorem EncodedLength.adcbAImm (n : Byte) : EncodedLength.Statement (.adcbAImm n) :=
  EncodedLength.ofLength (n := 2) (by decide) fun _ _ h => by cases h; rfl

theorem EncodedLength.adcAEr (r : BitVec 2) : EncodedLength.Statement (.adcAEr r) :=
  EncodedLength.ofLength (n := 1) (by decide) fun _ _ h => by cases h; rfl

theorem EncodedLength.adcbAR (r : BitVec 3) : EncodedLength.Statement (.adcbAR r) :=
  EncodedLength.ofLength (n := 1) (by decide) fun _ _ h => by cases h; rfl

theorem EncodedLength.adcAOff (n : Byte) : EncodedLength.Statement (.adcAOff n) :=
  EncodedLength.ofLength (n := 2) (by decide) fun _ _ h => by cases h; rfl

theorem EncodedLength.adcbAOff (n : Byte) : EncodedLength.Statement (.adcbAOff n) :=
  EncodedLength.ofLength (n := 2) (by decide) fun _ _ h => by cases h; rfl

theorem EncodedLength.adcAObj (o : WObj) : EncodedLength.Statement (.adcAObj o) :=
  EncodedLength.wordPrefix (o := o) (xs := [0x92#8]) (by simp)
    fun _ => rfl

theorem EncodedLength.adcbAObj (o : BObj) : EncodedLength.Statement (.adcbAObj o) :=
  EncodedLength.bytePrefix (o := o) (xs := [0x92#8]) (by simp)
    fun _ => rfl

theorem EncodedLength.adcObjA (o : WObj) : EncodedLength.Statement (.adcObjA o) :=
  EncodedLength.wordPrefix (o := o) (xs := [0x91#8]) (by simp)
    fun _ => rfl

theorem EncodedLength.adcbObjA (o : BObj) : EncodedLength.Statement (.adcbObjA o) :=
  EncodedLength.bytePrefix (o := o) (xs := [0x91#8]) (by simp)
    fun _ => rfl

theorem EncodedLength.adcObjOff (o : WObj) (n : Byte) : EncodedLength.Statement (.adcObjOff o n) :=
  EncodedLength.wordPrefix (o := o) (xs := [0x93#8, n]) (by simp)
    fun _ => rfl

theorem EncodedLength.adcbObjOff (o : BObj) (n : Byte) : EncodedLength.Statement (.adcbObjOff o n) :=
  EncodedLength.bytePrefix (o := o) (xs := [0x93#8, n]) (by simp)
    fun _ => rfl

theorem EncodedLength.adcObjImm (o : WObj) (n : Word) : EncodedLength.Statement (.adcObjImm o n) :=
  EncodedLength.wordPrefix (o := o) (xs := [0x90#8] ++ wordBytes n) (by simp)
    fun _ => congrArg some (List.append_assoc _ _ _)

theorem EncodedLength.adcbObjImm (o : BObj) (n : Byte) : EncodedLength.Statement (.adcbObjImm o n) :=
  EncodedLength.bytePrefix (o := o) (xs := [0x90#8, n]) (by simp)
    fun _ => rfl

theorem EncodedLength.subAImm (n : Word) : EncodedLength.Statement (.subAImm n) :=
  EncodedLength.ofLength (n := 3) (by decide) fun _ _ h => by cases h; rfl

theorem EncodedLength.subbAImm (n : Byte) : EncodedLength.Statement (.subbAImm n) :=
  EncodedLength.ofLength (n := 2) (by decide) fun _ _ h => by cases h; rfl

theorem EncodedLength.subAEr (r : BitVec 2) : EncodedLength.Statement (.subAEr r) :=
  EncodedLength.ofLength (n := 1) (by decide) fun _ _ h => by cases h; rfl

theorem EncodedLength.subbAR (r : BitVec 3) : EncodedLength.Statement (.subbAR r) :=
  EncodedLength.ofLength (n := 1) (by decide) fun _ _ h => by cases h; rfl

theorem EncodedLength.subAOff (n : Byte) : EncodedLength.Statement (.subAOff n) :=
  EncodedLength.ofLength (n := 2) (by decide) fun _ _ h => by cases h; rfl

theorem EncodedLength.subbAOff (n : Byte) : EncodedLength.Statement (.subbAOff n) :=
  EncodedLength.ofLength (n := 2) (by decide) fun _ _ h => by cases h; rfl

theorem EncodedLength.subAObj (o : WObj) : EncodedLength.Statement (.subAObj o) :=
  EncodedLength.wordPrefix (o := o) (xs := [0xA2#8]) (by simp)
    fun _ => rfl

theorem EncodedLength.subbAObj (o : BObj) : EncodedLength.Statement (.subbAObj o) :=
  EncodedLength.bytePrefix (o := o) (xs := [0xA2#8]) (by simp)
    fun _ => rfl

theorem EncodedLength.subObjA (o : WObj) : EncodedLength.Statement (.subObjA o) :=
  EncodedLength.wordPrefix (o := o) (xs := [0xA1#8]) (by simp)
    fun _ => rfl

theorem EncodedLength.subbObjA (o : BObj) : EncodedLength.Statement (.subbObjA o) :=
  EncodedLength.bytePrefix (o := o) (xs := [0xA1#8]) (by simp)
    fun _ => rfl

theorem EncodedLength.subObjOff (o : WObj) (n : Byte) : EncodedLength.Statement (.subObjOff o n) :=
  EncodedLength.wordPrefix (o := o) (xs := [0xA3#8, n]) (by simp)
    fun _ => rfl

theorem EncodedLength.subbObjOff (o : BObj) (n : Byte) : EncodedLength.Statement (.subbObjOff o n) :=
  EncodedLength.bytePrefix (o := o) (xs := [0xA3#8, n]) (by simp)
    fun _ => rfl

theorem EncodedLength.subObjImm (o : WObj) (n : Word) : EncodedLength.Statement (.subObjImm o n) :=
  EncodedLength.wordPrefix (o := o) (xs := [0xA0#8] ++ wordBytes n) (by simp)
    fun _ => congrArg some (List.append_assoc _ _ _)

theorem EncodedLength.subbObjImm (o : BObj) (n : Byte) : EncodedLength.Statement (.subbObjImm o n) :=
  EncodedLength.bytePrefix (o := o) (xs := [0xA0#8, n]) (by simp)
    fun _ => rfl

theorem EncodedLength.sbcAImm (n : Word) : EncodedLength.Statement (.sbcAImm n) :=
  EncodedLength.ofLength (n := 3) (by decide) fun _ _ h => by cases h; rfl

theorem EncodedLength.sbcbAImm (n : Byte) : EncodedLength.Statement (.sbcbAImm n) :=
  EncodedLength.ofLength (n := 2) (by decide) fun _ _ h => by cases h; rfl

theorem EncodedLength.sbcAEr (r : BitVec 2) : EncodedLength.Statement (.sbcAEr r) :=
  EncodedLength.ofLength (n := 1) (by decide) fun _ _ h => by cases h; rfl

theorem EncodedLength.sbcbAR (r : BitVec 3) : EncodedLength.Statement (.sbcbAR r) :=
  EncodedLength.ofLength (n := 1) (by decide) fun _ _ h => by cases h; rfl

theorem EncodedLength.sbcAOff (n : Byte) : EncodedLength.Statement (.sbcAOff n) :=
  EncodedLength.ofLength (n := 2) (by decide) fun _ _ h => by cases h; rfl

theorem EncodedLength.sbcbAOff (n : Byte) : EncodedLength.Statement (.sbcbAOff n) :=
  EncodedLength.ofLength (n := 2) (by decide) fun _ _ h => by cases h; rfl

theorem EncodedLength.sbcAObj (o : WObj) : EncodedLength.Statement (.sbcAObj o) :=
  EncodedLength.wordPrefix (o := o) (xs := [0xB2#8]) (by simp)
    fun _ => rfl

theorem EncodedLength.sbcbAObj (o : BObj) : EncodedLength.Statement (.sbcbAObj o) :=
  EncodedLength.bytePrefix (o := o) (xs := [0xB2#8]) (by simp)
    fun _ => rfl

theorem EncodedLength.sbcObjA (o : WObj) : EncodedLength.Statement (.sbcObjA o) :=
  EncodedLength.wordPrefix (o := o) (xs := [0xB1#8]) (by simp)
    fun _ => rfl

theorem EncodedLength.sbcbObjA (o : BObj) : EncodedLength.Statement (.sbcbObjA o) :=
  EncodedLength.bytePrefix (o := o) (xs := [0xB1#8]) (by simp)
    fun _ => rfl

theorem EncodedLength.sbcObjOff (o : WObj) (n : Byte) : EncodedLength.Statement (.sbcObjOff o n) :=
  EncodedLength.wordPrefix (o := o) (xs := [0xB3#8, n]) (by simp)
    fun _ => rfl

theorem EncodedLength.sbcbObjOff (o : BObj) (n : Byte) : EncodedLength.Statement (.sbcbObjOff o n) :=
  EncodedLength.bytePrefix (o := o) (xs := [0xB3#8, n]) (by simp)
    fun _ => rfl

theorem EncodedLength.sbcObjImm (o : WObj) (n : Word) : EncodedLength.Statement (.sbcObjImm o n) :=
  EncodedLength.wordPrefix (o := o) (xs := [0xB0#8] ++ wordBytes n) (by simp)
    fun _ => congrArg some (List.append_assoc _ _ _)

theorem EncodedLength.sbcbObjImm (o : BObj) (n : Byte) : EncodedLength.Statement (.sbcbObjImm o n) :=
  EncodedLength.bytePrefix (o := o) (xs := [0xB0#8, n]) (by simp)
    fun _ => rfl

theorem EncodedLength.cmpAImm (n : Word) : EncodedLength.Statement (.cmpAImm n) :=
  EncodedLength.ofLength (n := 3) (by decide) fun _ _ h => by cases h; rfl

theorem EncodedLength.cmpbAImm (n : Byte) : EncodedLength.Statement (.cmpbAImm n) :=
  EncodedLength.ofLength (n := 2) (by decide) fun _ _ h => by cases h; rfl

theorem EncodedLength.cmpAEr (r : BitVec 2) : EncodedLength.Statement (.cmpAEr r) :=
  EncodedLength.ofLength (n := 1) (by decide) fun _ _ h => by cases h; rfl

theorem EncodedLength.cmpbAR (r : BitVec 3) : EncodedLength.Statement (.cmpbAR r) :=
  EncodedLength.ofLength (n := 1) (by decide) fun _ _ h => by cases h; rfl

theorem EncodedLength.cmpAOff (n : Byte) : EncodedLength.Statement (.cmpAOff n) :=
  EncodedLength.ofLength (n := 2) (by decide) fun _ _ h => by cases h; rfl

theorem EncodedLength.cmpbAOff (n : Byte) : EncodedLength.Statement (.cmpbAOff n) :=
  EncodedLength.ofLength (n := 2) (by decide) fun _ _ h => by cases h; rfl

theorem EncodedLength.cmpAObj (o : WObj) : EncodedLength.Statement (.cmpAObj o) :=
  EncodedLength.wordPrefix (o := o) (xs := [0xC2#8]) (by simp)
    fun _ => rfl

theorem EncodedLength.cmpbAObj (o : BObj) : EncodedLength.Statement (.cmpbAObj o) :=
  EncodedLength.bytePrefix (o := o) (xs := [0xC2#8]) (by simp)
    fun _ => rfl

theorem EncodedLength.cmpObjA (o : WObj) : EncodedLength.Statement (.cmpObjA o) :=
  EncodedLength.wordPrefix (o := o) (xs := [0xC1#8]) (by simp)
    fun _ => rfl

theorem EncodedLength.cmpbObjA (o : BObj) : EncodedLength.Statement (.cmpbObjA o) :=
  EncodedLength.bytePrefix (o := o) (xs := [0xC1#8]) (by simp)
    fun _ => rfl

theorem EncodedLength.cmpObjOff (o : WObj) (n : Byte) : EncodedLength.Statement (.cmpObjOff o n) :=
  EncodedLength.wordPrefix (o := o) (xs := [0xC3#8, n]) (by simp)
    fun _ => rfl

theorem EncodedLength.cmpbObjOff (o : BObj) (n : Byte) : EncodedLength.Statement (.cmpbObjOff o n) :=
  EncodedLength.bytePrefix (o := o) (xs := [0xC3#8, n]) (by simp)
    fun _ => rfl

theorem EncodedLength.cmpObjImm (o : WObj) (n : Word) : EncodedLength.Statement (.cmpObjImm o n) :=
  EncodedLength.wordPrefix (o := o) (xs := [0xC0#8] ++ wordBytes n) (by simp)
    fun _ => congrArg some (List.append_assoc _ _ _)

theorem EncodedLength.cmpbObjImm (o : BObj) (n : Byte) : EncodedLength.Statement (.cmpbObjImm o n) :=
  EncodedLength.bytePrefix (o := o) (xs := [0xC0#8, n]) (by simp)
    fun _ => rfl

theorem EncodedLength.andAImm (n : Word) : EncodedLength.Statement (.andAImm n) :=
  EncodedLength.ofLength (n := 3) (by decide) fun _ _ h => by cases h; rfl

theorem EncodedLength.andbAImm (n : Byte) : EncodedLength.Statement (.andbAImm n) :=
  EncodedLength.ofLength (n := 2) (by decide) fun _ _ h => by cases h; rfl

theorem EncodedLength.andAEr (r : BitVec 2) : EncodedLength.Statement (.andAEr r) :=
  EncodedLength.ofLength (n := 1) (by decide) fun _ _ h => by cases h; rfl

theorem EncodedLength.andbAR (r : BitVec 3) : EncodedLength.Statement (.andbAR r) :=
  EncodedLength.ofLength (n := 1) (by decide) fun _ _ h => by cases h; rfl

theorem EncodedLength.andAOff (n : Byte) : EncodedLength.Statement (.andAOff n) :=
  EncodedLength.ofLength (n := 2) (by decide) fun _ _ h => by cases h; rfl

theorem EncodedLength.andbAOff (n : Byte) : EncodedLength.Statement (.andbAOff n) :=
  EncodedLength.ofLength (n := 2) (by decide) fun _ _ h => by cases h; rfl

theorem EncodedLength.andAObj (o : WObj) : EncodedLength.Statement (.andAObj o) :=
  EncodedLength.wordPrefix (o := o) (xs := [0xD2#8]) (by simp)
    fun _ => rfl

theorem EncodedLength.andbAObj (o : BObj) : EncodedLength.Statement (.andbAObj o) :=
  EncodedLength.bytePrefix (o := o) (xs := [0xD2#8]) (by simp)
    fun _ => rfl

theorem EncodedLength.andObjA (o : WObj) : EncodedLength.Statement (.andObjA o) :=
  EncodedLength.wordPrefix (o := o) (xs := [0xD1#8]) (by simp)
    fun _ => rfl

theorem EncodedLength.andbObjA (o : BObj) : EncodedLength.Statement (.andbObjA o) :=
  EncodedLength.bytePrefix (o := o) (xs := [0xD1#8]) (by simp)
    fun _ => rfl

theorem EncodedLength.andObjOff (o : WObj) (n : Byte) : EncodedLength.Statement (.andObjOff o n) :=
  EncodedLength.wordPrefix (o := o) (xs := [0xD3#8, n]) (by simp)
    fun _ => rfl

theorem EncodedLength.andbObjOff (o : BObj) (n : Byte) : EncodedLength.Statement (.andbObjOff o n) :=
  EncodedLength.bytePrefix (o := o) (xs := [0xD3#8, n]) (by simp)
    fun _ => rfl

theorem EncodedLength.andObjImm (o : WObj) (n : Word) : EncodedLength.Statement (.andObjImm o n) :=
  EncodedLength.wordPrefix (o := o) (xs := [0xD0#8] ++ wordBytes n) (by simp)
    fun _ => congrArg some (List.append_assoc _ _ _)

theorem EncodedLength.andbObjImm (o : BObj) (n : Byte) : EncodedLength.Statement (.andbObjImm o n) :=
  EncodedLength.bytePrefix (o := o) (xs := [0xD0#8, n]) (by simp)
    fun _ => rfl

theorem EncodedLength.orAImm (n : Word) : EncodedLength.Statement (.orAImm n) :=
  EncodedLength.ofLength (n := 3) (by decide) fun _ _ h => by cases h; rfl

theorem EncodedLength.orbAImm (n : Byte) : EncodedLength.Statement (.orbAImm n) :=
  EncodedLength.ofLength (n := 2) (by decide) fun _ _ h => by cases h; rfl

theorem EncodedLength.orAEr (r : BitVec 2) : EncodedLength.Statement (.orAEr r) :=
  EncodedLength.ofLength (n := 1) (by decide) fun _ _ h => by cases h; rfl

theorem EncodedLength.orbAR (r : BitVec 3) : EncodedLength.Statement (.orbAR r) :=
  EncodedLength.ofLength (n := 1) (by decide) fun _ _ h => by cases h; rfl

theorem EncodedLength.orAOff (n : Byte) : EncodedLength.Statement (.orAOff n) :=
  EncodedLength.ofLength (n := 2) (by decide) fun _ _ h => by cases h; rfl

theorem EncodedLength.orbAOff (n : Byte) : EncodedLength.Statement (.orbAOff n) :=
  EncodedLength.ofLength (n := 2) (by decide) fun _ _ h => by cases h; rfl

theorem EncodedLength.orAObj (o : WObj) : EncodedLength.Statement (.orAObj o) :=
  EncodedLength.wordPrefix (o := o) (xs := [0xE2#8]) (by simp)
    fun _ => rfl

theorem EncodedLength.orbAObj (o : BObj) : EncodedLength.Statement (.orbAObj o) :=
  EncodedLength.bytePrefix (o := o) (xs := [0xE2#8]) (by simp)
    fun _ => rfl

theorem EncodedLength.orObjA (o : WObj) : EncodedLength.Statement (.orObjA o) :=
  EncodedLength.wordPrefix (o := o) (xs := [0xE1#8]) (by simp)
    fun _ => rfl

theorem EncodedLength.orbObjA (o : BObj) : EncodedLength.Statement (.orbObjA o) :=
  EncodedLength.bytePrefix (o := o) (xs := [0xE1#8]) (by simp)
    fun _ => rfl

theorem EncodedLength.orObjOff (o : WObj) (n : Byte) : EncodedLength.Statement (.orObjOff o n) :=
  EncodedLength.wordPrefix (o := o) (xs := [0xE3#8, n]) (by simp)
    fun _ => rfl

theorem EncodedLength.orbObjOff (o : BObj) (n : Byte) : EncodedLength.Statement (.orbObjOff o n) :=
  EncodedLength.bytePrefix (o := o) (xs := [0xE3#8, n]) (by simp)
    fun _ => rfl

theorem EncodedLength.orObjImm (o : WObj) (n : Word) : EncodedLength.Statement (.orObjImm o n) :=
  EncodedLength.wordPrefix (o := o) (xs := [0xE0#8] ++ wordBytes n) (by simp)
    fun _ => congrArg some (List.append_assoc _ _ _)

theorem EncodedLength.orbObjImm (o : BObj) (n : Byte) : EncodedLength.Statement (.orbObjImm o n) :=
  EncodedLength.bytePrefix (o := o) (xs := [0xE0#8, n]) (by simp)
    fun _ => rfl

theorem EncodedLength.xorAImm (n : Word) : EncodedLength.Statement (.xorAImm n) :=
  EncodedLength.ofLength (n := 3) (by decide) fun _ _ h => by cases h; rfl

theorem EncodedLength.xorbAImm (n : Byte) : EncodedLength.Statement (.xorbAImm n) :=
  EncodedLength.ofLength (n := 2) (by decide) fun _ _ h => by cases h; rfl

theorem EncodedLength.xorAOff (n : Byte) : EncodedLength.Statement (.xorAOff n) :=
  EncodedLength.ofLength (n := 2) (by decide) fun _ _ h => by cases h; rfl

theorem EncodedLength.xorbAOff (n : Byte) : EncodedLength.Statement (.xorbAOff n) :=
  EncodedLength.ofLength (n := 2) (by decide) fun _ _ h => by cases h; rfl

theorem EncodedLength.xorAObj (o : WObj) : EncodedLength.Statement (.xorAObj o) :=
  EncodedLength.wordPrefix (o := o) (xs := [0xF2#8]) (by simp)
    fun _ => rfl

theorem EncodedLength.xorbAObj (o : BObj) : EncodedLength.Statement (.xorbAObj o) :=
  EncodedLength.bytePrefix (o := o) (xs := [0xF2#8]) (by simp)
    fun _ => rfl

theorem EncodedLength.xorObjA (o : WObj) : EncodedLength.Statement (.xorObjA o) :=
  EncodedLength.wordPrefix (o := o) (xs := [0xF1#8]) (by simp)
    fun _ => rfl

theorem EncodedLength.xorbObjA (o : BObj) : EncodedLength.Statement (.xorbObjA o) :=
  EncodedLength.bytePrefix (o := o) (xs := [0xF1#8]) (by simp)
    fun _ => rfl

theorem EncodedLength.xorObjOff (o : WObj) (n : Byte) : EncodedLength.Statement (.xorObjOff o n) :=
  EncodedLength.wordPrefix (o := o) (xs := [0xF3#8, n]) (by simp)
    fun _ => rfl

theorem EncodedLength.xorbObjOff (o : BObj) (n : Byte) : EncodedLength.Statement (.xorbObjOff o n) :=
  EncodedLength.bytePrefix (o := o) (xs := [0xF3#8, n]) (by simp)
    fun _ => rfl

theorem EncodedLength.xorObjImm (o : WObj) (n : Word) : EncodedLength.Statement (.xorObjImm o n) :=
  EncodedLength.wordPrefix (o := o) (xs := [0xF0#8] ++ wordBytes n) (by simp)
    fun _ => congrArg some (List.append_assoc _ _ _)

theorem EncodedLength.xorbObjImm (o : BObj) (n : Byte) : EncodedLength.Statement (.xorbObjImm o n) :=
  EncodedLength.bytePrefix (o := o) (xs := [0xF0#8, n]) (by simp)
    fun _ => rfl

theorem EncodedLength.sbBit (o : BObj) (n : BitVec 3) : EncodedLength.Statement (.sbBit o n) :=
  EncodedLength.bytePrefix (o := o) (xs := [0x18#8 ||| n.setWidth 8]) (by simp)
    fun _ => rfl

theorem EncodedLength.rbBit (o : BObj) (n : BitVec 3) : EncodedLength.Statement (.rbBit o n) :=
  EncodedLength.bytePrefix (o := o) (xs := [0x08#8 ||| n.setWidth 8]) (by simp)
    fun _ => rfl

theorem EncodedLength.mbCBit (o : BObj) (n : BitVec 3) : EncodedLength.Statement (.mbCBit o n) :=
  EncodedLength.bytePrefix (o := o) (xs := [0x28#8 ||| n.setWidth 8]) (by simp)
    fun _ => rfl

theorem EncodedLength.mbBitC (o : BObj) (n : BitVec 3) : EncodedLength.Statement (.mbBitC o n) :=
  EncodedLength.bytePrefix (o := o) (xs := [0x38#8 ||| n.setWidth 8]) (by simp)
    fun _ => rfl

theorem EncodedLength.sbrObj (o : BObj) : EncodedLength.Statement (.sbrObj o) :=
  EncodedLength.bytePrefix (o := o) (xs := [0x11#8]) (by simp)
    fun _ => rfl

theorem EncodedLength.rbrObj (o : BObj) : EncodedLength.Statement (.rbrObj o) :=
  EncodedLength.bytePrefix (o := o) (xs := [0x12#8]) (by simp)
    fun _ => rfl

theorem EncodedLength.tbrObj (o : BObj) : EncodedLength.Statement (.tbrObj o) :=
  EncodedLength.bytePrefix (o := o) (xs := [0x13#8]) (by simp)
    fun _ => rfl

theorem EncodedLength.mbrCObj (o : BObj) : EncodedLength.Statement (.mbrCObj o) :=
  EncodedLength.bytePrefix (o := o) (xs := [0x21#8]) (by simp)
    fun _ => rfl

theorem EncodedLength.mbrObjC (o : BObj) : EncodedLength.Statement (.mbrObjC o) :=
  EncodedLength.bytePrefix (o := o) (xs := [0x20#8]) (by simp)
    fun _ => rfl

theorem EncodedLength.sj (rel : Byte) : EncodedLength.Statement (.sj rel) :=
  EncodedLength.ofLength (n := 2) (by decide) fun _ _ h => by cases h; rfl

theorem EncodedLength.jAddr (ad : Word) : EncodedLength.Statement (.jAddr ad) :=
  EncodedLength.ofLength (n := 3) (by decide) fun _ _ h => by cases h; rfl

theorem EncodedLength.jObj (o : WObj) : EncodedLength.Statement (.jObj o) :=
  EncodedLength.wordPrefix (o := o) (xs := [0x22#8]) (by simp)
    fun _ => rfl

theorem EncodedLength.jcGt (rel : Byte) : EncodedLength.Statement (.jcGt rel) :=
  EncodedLength.ofLength (n := 2) (by decide) fun _ _ h => by cases h; rfl

theorem EncodedLength.jcEq (rel : Byte) : EncodedLength.Statement (.jcEq rel) :=
  EncodedLength.ofLength (n := 2) (by decide) fun _ _ h => by cases h; rfl

theorem EncodedLength.jcLt (rel : Byte) : EncodedLength.Statement (.jcLt rel) :=
  EncodedLength.ofLength (n := 2) (by decide) fun _ _ h => by cases h; rfl

theorem EncodedLength.jcGe (rel : Byte) : EncodedLength.Statement (.jcGe rel) :=
  EncodedLength.ofLength (n := 2) (by decide) fun _ _ h => by cases h; rfl

theorem EncodedLength.jcNe (rel : Byte) : EncodedLength.Statement (.jcNe rel) :=
  EncodedLength.ofLength (n := 2) (by decide) fun _ _ h => by cases h; rfl

theorem EncodedLength.jcLe (rel : Byte) : EncodedLength.Statement (.jcLe rel) :=
  EncodedLength.ofLength (n := 2) (by decide) fun _ _ h => by cases h; rfl

theorem EncodedLength.jbs (bit : BitVec 3) (n : Byte) (rel : Byte) : EncodedLength.Statement (.jbs bit n rel) :=
  EncodedLength.ofLength (n := 3) (by decide) fun _ _ h => by cases h; rfl

theorem EncodedLength.jbr (bit : BitVec 3) (n : Byte) (rel : Byte) : EncodedLength.Statement (.jbr bit n rel) :=
  EncodedLength.ofLength (n := 3) (by decide) fun _ _ h => by cases h; rfl

theorem EncodedLength.jrnz (rel : Byte) : EncodedLength.Statement (.jrnz rel) :=
  EncodedLength.ofLength (n := 2) (by decide) fun _ _ h => by cases h; rfl

theorem EncodedLength.scal (rel : Byte) : EncodedLength.Statement (.scal rel) :=
  EncodedLength.ofLength (n := 2) (by decide) fun _ _ h => length_of_code h

theorem EncodedLength.calAddr (ad : Word) : EncodedLength.Statement (.calAddr ad) :=
  EncodedLength.ofLength (n := 3) (by decide) fun _ _ h => by cases h; rfl

theorem EncodedLength.calObj (o : WObj) : EncodedLength.Statement (.calObj o) :=
  EncodedLength.wordPrefix (o := o) (xs := [0x23#8]) (by simp)
    fun _ => rfl

theorem EncodedLength.vcal (n : BitVec 3) : EncodedLength.Statement (.vcal n) :=
  EncodedLength.ofLength (n := 1) (by decide) fun _ _ h => by cases h; rfl

theorem EncodedLength.wpEr (r : BitVec 2) (sfx : Byte) : EncodedLength.Statement (.wpEr r sfx) :=
  EncodedLength.wordPrefix (o := WObj.er r) (xs := [sfx]) (by simp)
    fun _ => rfl

theorem EncodedLength.wpX1 (sfx : Byte) : EncodedLength.Statement (.wpX1 sfx) :=
  EncodedLength.wordPrefix (o := WObj.x1) (xs := [sfx]) (by simp)
    fun _ => rfl

theorem EncodedLength.wpX2 (sfx : Byte) : EncodedLength.Statement (.wpX2 sfx) :=
  EncodedLength.wordPrefix (o := WObj.x2) (xs := [sfx]) (by simp)
    fun _ => rfl

theorem EncodedLength.wpDp (sfx : Byte) : EncodedLength.Statement (.wpDp sfx) :=
  EncodedLength.wordPrefix (o := WObj.dp) (xs := [sfx]) (by simp)
    fun _ => rfl

theorem EncodedLength.wpSsp (sfx : Byte) : EncodedLength.Statement (.wpSsp sfx) :=
  EncodedLength.wordPrefix (o := WObj.ssp) (xs := [sfx]) (by simp)
    fun _ => rfl

theorem EncodedLength.wpUsp (sfx : Byte) : EncodedLength.Statement (.wpUsp sfx) :=
  EncodedLength.wordPrefix (o := WObj.usp) (xs := [sfx]) (by simp)
    fun _ => rfl

theorem EncodedLength.wpLrb (sfx : Byte) : EncodedLength.Statement (.wpLrb sfx) :=
  EncodedLength.wordPrefix (o := WObj.lrb) (xs := [sfx]) (by simp)
    fun _ => rfl

theorem EncodedLength.wpX1Ind (n : Word) (sfx : Byte) : EncodedLength.Statement (.wpX1Ind n sfx) :=
  EncodedLength.wordPrefix (o := WObj.x1Ind n) (xs := [sfx]) (by simp)
    fun _ => rfl

theorem EncodedLength.wpX2Ind (n : Word) (sfx : Byte) : EncodedLength.Statement (.wpX2Ind n sfx) :=
  EncodedLength.wordPrefix (o := WObj.x2Ind n) (xs := [sfx]) (by simp)
    fun _ => rfl

theorem EncodedLength.wpDpInd (sfx : Byte) : EncodedLength.Statement (.wpDpInd sfx) :=
  EncodedLength.wordPrefix (o := WObj.dpInd) (xs := [sfx]) (by simp)
    fun _ => rfl

theorem EncodedLength.wpUspInd (n : Byte) (sfx : Byte) : EncodedLength.Statement (.wpUspInd n sfx) :=
  EncodedLength.wordPrefix (o := WObj.uspInd n) (xs := [sfx]) (by simp)
    fun _ => rfl

theorem EncodedLength.wpOff (n : Byte) (sfx : Byte) : EncodedLength.Statement (.wpOff n sfx) :=
  EncodedLength.wordPrefix (o := WObj.off n) (xs := [sfx]) (by simp)
    fun _ => rfl

theorem EncodedLength.wpZp (n : Byte) (sfx : Byte) : EncodedLength.Statement (.wpZp n sfx) :=
  EncodedLength.wordPrefix (o := WObj.zp n) (xs := [sfx]) (by simp)
    fun _ => rfl

theorem EncodedLength.bpR (r : BitVec 3) (sfx : Byte) : EncodedLength.Statement (.bpR r sfx) :=
  EncodedLength.bytePrefix (o := BObj.r r) (xs := [sfx]) (by simp)
    fun _ => rfl

theorem EncodedLength.bpPswh (sfx : Byte) : EncodedLength.Statement (.bpPswh sfx) :=
  EncodedLength.bytePrefix (o := BObj.pswh) (xs := [sfx]) (by simp)
    fun _ => rfl

theorem EncodedLength.bpPswl (sfx : Byte) : EncodedLength.Statement (.bpPswl sfx) :=
  EncodedLength.bytePrefix (o := BObj.pswl) (xs := [sfx]) (by simp)
    fun _ => rfl

theorem EncodedLength.bpX1Ind (n : Word) (sfx : Byte) : EncodedLength.Statement (.bpX1Ind n sfx) :=
  EncodedLength.bytePrefix (o := BObj.x1Ind n) (xs := [sfx]) (by simp)
    fun _ => rfl

theorem EncodedLength.bpX2Ind (n : Word) (sfx : Byte) : EncodedLength.Statement (.bpX2Ind n sfx) :=
  EncodedLength.bytePrefix (o := BObj.x2Ind n) (xs := [sfx]) (by simp)
    fun _ => rfl

theorem EncodedLength.bpDpInd (sfx : Byte) : EncodedLength.Statement (.bpDpInd sfx) :=
  EncodedLength.bytePrefix (o := BObj.dpInd) (xs := [sfx]) (by simp)
    fun _ => rfl

theorem EncodedLength.bpUspInd (n : Byte) (sfx : Byte) : EncodedLength.Statement (.bpUspInd n sfx) :=
  EncodedLength.bytePrefix (o := BObj.uspInd n) (xs := [sfx]) (by simp)
    fun _ => rfl

theorem EncodedLength.bpOff (n : Byte) (sfx : Byte) : EncodedLength.Statement (.bpOff n sfx) :=
  EncodedLength.bytePrefix (o := BObj.off n) (xs := [sfx]) (by simp)
    fun _ => rfl

theorem EncodedLength.bpZp (n : Byte) (sfx : Byte) : EncodedLength.Statement (.bpZp n sfx) :=
  EncodedLength.bytePrefix (o := BObj.zp n) (xs := [sfx]) (by simp)
    fun _ => rfl

theorem EncodedLength.illegal (b : Byte) : EncodedLength.Statement (.illegal b) :=
  EncodedLength.ofLength (n := 1) (by decide) fun _ _ h => by cases h; rfl

theorem EncodedLength.lX1 : EncodedLength.Statement .lX1 :=
  EncodedLength.ofLength (n := 1) (by decide) fun _ _ h => by cases h; rfl

theorem EncodedLength.lX2 : EncodedLength.Statement .lX2 :=
  EncodedLength.ofLength (n := 1) (by decide) fun _ _ h => by cases h; rfl

theorem EncodedLength.lDp : EncodedLength.Statement .lDp :=
  EncodedLength.ofLength (n := 1) (by decide) fun _ _ h => by cases h; rfl

theorem EncodedLength.lDpInd : EncodedLength.Statement .lDpInd :=
  EncodedLength.ofLength (n := 1) (by decide) fun _ _ h => by cases h; rfl

theorem EncodedLength.lbDpInd : EncodedLength.Statement .lbDpInd :=
  EncodedLength.ofLength (n := 1) (by decide) fun _ _ h => by cases h; rfl

theorem EncodedLength.stDpInd : EncodedLength.Statement .stDpInd :=
  EncodedLength.ofLength (n := 1) (by decide) fun _ _ h => by cases h; rfl

theorem EncodedLength.stbDpInd : EncodedLength.Statement .stbDpInd :=
  EncodedLength.ofLength (n := 1) (by decide) fun _ _ h => by cases h; rfl

theorem EncodedLength.movX1A : EncodedLength.Statement .movX1A :=
  EncodedLength.ofLength (n := 1) (by decide) fun _ _ h => by cases h; rfl

theorem EncodedLength.movX2A : EncodedLength.Statement .movX2A :=
  EncodedLength.ofLength (n := 1) (by decide) fun _ _ h => by cases h; rfl

theorem EncodedLength.movDpA : EncodedLength.Statement .movDpA :=
  EncodedLength.ofLength (n := 1) (by decide) fun _ _ h => by cases h; rfl

theorem EncodedLength.clrA : EncodedLength.Statement .clrA :=
  EncodedLength.ofLength (n := 1) (by decide) fun _ _ h => by cases h; rfl

theorem EncodedLength.clrbA : EncodedLength.Statement .clrbA :=
  EncodedLength.ofLength (n := 1) (by decide) fun _ _ h => by cases h; rfl

theorem EncodedLength.swap : EncodedLength.Statement .swap :=
  EncodedLength.ofLength (n := 1) (by decide) fun _ _ h => by cases h; rfl

theorem EncodedLength.swapb : EncodedLength.Statement .swapb :=
  EncodedLength.ofLength (n := 1) (by decide) fun _ _ h => by cases h; rfl

theorem EncodedLength.pushsA : EncodedLength.Statement .pushsA :=
  EncodedLength.ofLength (n := 1) (by decide) fun _ _ h => length_of_code h

theorem EncodedLength.pushsLrb : EncodedLength.Statement .pushsLrb :=
  EncodedLength.ofLength (n := 1) (by decide) fun _ _ h => by cases h; rfl

theorem EncodedLength.popsA : EncodedLength.Statement .popsA :=
  EncodedLength.ofLength (n := 1) (by decide) fun _ _ h => length_of_code h

theorem EncodedLength.popsLrb : EncodedLength.Statement .popsLrb :=
  EncodedLength.ofLength (n := 1) (by decide) fun _ _ h => length_of_code h

theorem EncodedLength.rolA : EncodedLength.Statement .rolA :=
  EncodedLength.ofLength (n := 1) (by decide) fun _ _ h => length_of_code h

theorem EncodedLength.rolbA : EncodedLength.Statement .rolbA :=
  EncodedLength.ofLength (n := 1) (by decide) fun _ _ h => length_of_code h

theorem EncodedLength.rorA : EncodedLength.Statement .rorA :=
  EncodedLength.ofLength (n := 1) (by decide) fun _ _ h => by cases h; rfl

theorem EncodedLength.rorbA : EncodedLength.Statement .rorbA :=
  EncodedLength.ofLength (n := 1) (by decide) fun _ _ h => by cases h; rfl

theorem EncodedLength.sllA : EncodedLength.Statement .sllA :=
  EncodedLength.ofLength (n := 1) (by decide) fun _ _ h => by cases h; rfl

theorem EncodedLength.sllbA : EncodedLength.Statement .sllbA :=
  EncodedLength.ofLength (n := 1) (by decide) fun _ _ h => by cases h; rfl

theorem EncodedLength.srlA : EncodedLength.Statement .srlA :=
  EncodedLength.ofLength (n := 1) (by decide) fun _ _ h => length_of_code h

theorem EncodedLength.srlbA : EncodedLength.Statement .srlbA :=
  EncodedLength.ofLength (n := 1) (by decide) fun _ _ h => length_of_code h

theorem EncodedLength.sraA : EncodedLength.Statement .sraA :=
  EncodedLength.ofLength (n := 1) (by decide) fun _ _ h => by cases h; rfl

theorem EncodedLength.srabA : EncodedLength.Statement .srabA :=
  EncodedLength.ofLength (n := 1) (by decide) fun _ _ h => by cases h; rfl

theorem EncodedLength.incX1 : EncodedLength.Statement .incX1 :=
  EncodedLength.ofLength (n := 1) (by decide) fun _ _ h => by cases h; rfl

theorem EncodedLength.incX2 : EncodedLength.Statement .incX2 :=
  EncodedLength.ofLength (n := 1) (by decide) fun _ _ h => by cases h; rfl

theorem EncodedLength.incDp : EncodedLength.Statement .incDp :=
  EncodedLength.ofLength (n := 1) (by decide) fun _ _ h => by cases h; rfl

theorem EncodedLength.incLrb : EncodedLength.Statement .incLrb :=
  EncodedLength.ofLength (n := 1) (by decide) fun _ _ h => length_of_code h

theorem EncodedLength.decX1 : EncodedLength.Statement .decX1 :=
  EncodedLength.ofLength (n := 1) (by decide) fun _ _ h => by cases h; rfl

theorem EncodedLength.decX2 : EncodedLength.Statement .decX2 :=
  EncodedLength.ofLength (n := 1) (by decide) fun _ _ h => by cases h; rfl

theorem EncodedLength.decDp : EncodedLength.Statement .decDp :=
  EncodedLength.ofLength (n := 1) (by decide) fun _ _ h => by cases h; rfl

theorem EncodedLength.decLrb : EncodedLength.Statement .decLrb :=
  EncodedLength.ofLength (n := 1) (by decide) fun _ _ h => length_of_code h

theorem EncodedLength.mul : EncodedLength.Statement .mul :=
  EncodedLength.ofLength (n := 2) (by decide) fun _ _ h => by cases h; rfl

theorem EncodedLength.mulb : EncodedLength.Statement .mulb :=
  EncodedLength.ofLength (n := 2) (by decide) fun _ _ h => by cases h; rfl

theorem EncodedLength.div : EncodedLength.Statement .div :=
  EncodedLength.ofLength (n := 2) (by decide) fun _ _ h => by cases h; rfl

theorem EncodedLength.divb : EncodedLength.Statement .divb :=
  EncodedLength.ofLength (n := 2) (by decide) fun _ _ h => by cases h; rfl

theorem EncodedLength.daa : EncodedLength.Statement .daa :=
  EncodedLength.ofLength (n := 1) (by decide) fun _ _ h => by cases h; rfl

theorem EncodedLength.das : EncodedLength.Statement .das :=
  EncodedLength.ofLength (n := 1) (by decide) fun _ _ h => by cases h; rfl

theorem EncodedLength.extnd : EncodedLength.Statement .extnd :=
  EncodedLength.ofLength (n := 1) (by decide) fun _ _ h => by cases h; rfl

theorem EncodedLength.rt : EncodedLength.Statement .rt :=
  EncodedLength.ofLength (n := 1) (by decide) fun _ _ h => by cases h; rfl

theorem EncodedLength.rti : EncodedLength.Statement .rti :=
  EncodedLength.ofLength (n := 1) (by decide) fun _ _ h => by cases h; rfl

theorem EncodedLength.sc : EncodedLength.Statement .sc :=
  EncodedLength.ofLength (n := 1) (by decide) fun _ _ h => by cases h; rfl

theorem EncodedLength.rc : EncodedLength.Statement .rc :=
  EncodedLength.ofLength (n := 1) (by decide) fun _ _ h => by cases h; rfl

theorem EncodedLength.brk : EncodedLength.Statement .brk :=
  EncodedLength.ofLength (n := 1) (by decide) fun _ _ h => by cases h; rfl

theorem EncodedLength.nop : EncodedLength.Statement .nop :=
  EncodedLength.ofLength (n := 1) (by decide) fun _ _ h => by cases h; rfl

end Sys2Proof.Laws
end

