-- ==== Sys2Proof/Laws/ProgramCounter.lean ====
section
/-! SUPPORT. The operations of the instructions that transfer no control neither read nor write PC; so such an
instruction that completes at one place in program memory is refused only where its next PC would pass FFFFH. -/

namespace Sys2Proof.Machine

/-- An operation that gives the same whatever PC is, but for PC, which it keeps. -/
def PcFree (f : State → Res State) : Prop := ∀ s p, f (s.setPc p) = (f s).map fun t => t.setPc p

/-- An update of a state that neither reads nor writes PC. -/
def PcFreeUpdate (f : State → State) : Prop := ∀ s p, f (s.setPc p) = (f s).setPc p

/-- A read that does not depend on PC. -/
def PcFreeRead {α : Type} (g : State → Res α) : Prop := ∀ s p, g (s.setPc p) = g s

/-- A read that another read leads to. -/
theorem PcFreeRead.bind {α β : Type} {g : State → Res α} {h : State → α → Res β} (hg : PcFreeRead g)
    (hh : ∀ a, PcFreeRead fun s => h s a) : PcFreeRead fun s => g s >>= h s := fun s p => by
  show g (s.setPc p) >>= h (s.setPc p) = g s >>= h s
  rw [hg s p]
  exact congrArg _ (funext fun a => hh a s p)

/-- A read and then an operation on what it gave. -/
theorem PcFree.read {α : Type} {g : State → Res α} {k : State → α → Res State} (hg : PcFreeRead g)
    (hk : ∀ a, PcFree fun s => k s a) : PcFree fun s => g s >>= k s := fun s p => by
  show g (s.setPc p) >>= k (s.setPc p) = (g s >>= k s).map _
  rw [hg s p]
  cases g s with
  | error e => rfl
  | ok a => exact hk a s p

/-- An operation and then another on the state it left. -/
theorem PcFree.andThen {f : State → Res State} {k : State → State → Res State} (hf : PcFree f)
    (hk : ∀ s p t, k (s.setPc p) (t.setPc p) = (k s t).map fun u => u.setPc p) :
    PcFree fun s => f s >>= k s := fun s p => by
  show f (s.setPc p) >>= k (s.setPc p) = (f s >>= k s).map _
  rw [hf s p]
  cases f s with
  | error e => rfl
  | ok t => exact hk s p t

theorem PcFree.ok {f : State → State} (hf : PcFreeUpdate f) : PcFree fun s => .ok (f s) := fun s p =>
  congrArg Except.ok (hf s p)

theorem PcFree.ite {c : State → Bool} {f g : State → Res State} (hc : ∀ s p, c (s.setPc p) = c s) (hf : PcFree f)
    (hg : PcFree g) : PcFree fun s => if c s then f s else g s := fun s p => by
  show (if c (s.setPc p) then f (s.setPc p) else g (s.setPc p)) = _
  rw [hc]
  cases hcs : c s
  · simpa [hcs] using hg s p
  · simpa [hcs] using hf s p

/-- What such an operation leaves has the PC it found. -/
theorem PcFree.pc {f : State → Res State} (hf : PcFree f) {s t : State} (h : f s = .ok t) : t.pc = s.pc := by
  have h1 : f (s.setPc s.pc) = .ok (t.setPc s.pc) := by rw [hf, h]; rfl
  have h2 : f (s.setPc s.pc) = .ok t := h
  have h3 : t = t.setPc s.pc := Except.ok.inj (h2.symm.trans h1)
  rw [h3]; rfl

/-- An instruction that completes at some PC is refused where its next PC would pass FFFFH (spec/10_state.md R24). -/
theorem PcFree.pastEnd {f : State → Res State} (hf : PcFree f) {s t : State} {p : Word} {n : Nat}
    (h : finish n (f (s.setPc p)) = .next t) (hl : 0xFFFF < s.pc.toNat + n) :
    finish n (f s) = .refused .pcPastEnd := by
  obtain ⟨u, hu, -⟩ := finish_cases h
  rw [hf] at hu
  cases hs : f s with
  | error e => rw [hs] at hu; cases hu
  | ok v =>
    show outcome (advance n v) = _
    unfold advance
    rw [hf.pc hs, if_neg (by omega)]
    rfl

/-! The updates. -/

theorem pcFree_setReg (r : CpuReg) (v : Word) : PcFreeUpdate fun s => s.setReg r v := fun s p => by cases r <;> rfl

theorem pcFree_setFlag? (f : Flag) (b : Option Bool) : PcFreeUpdate fun s => s.setFlag? f b := fun s p => by
  cases b <;> rfl

theorem pcFree_aluFlagsB (r : AluOut 8) : PcFreeUpdate fun s => s.aluFlagsB r := fun s p => by
  unfold State.aluFlagsB
  rcases r with ⟨_, _ | _, _ | _⟩ <;> rfl

theorem pcFree_aluFlagsW (r : AluOut 16) : PcFreeUpdate fun s => s.aluFlagsW r := fun s p => by
  unfold State.aluFlagsW
  rcases r with ⟨_, _ | _, _ | _⟩ <;> rfl

theorem pcFree_aluAccW (op : AluOp) (b : Word) : PcFreeUpdate fun s => s.aluAccW op b := fun s p => by
  unfold State.aluAccW
  dsimp only
  cases op.stores
  · exact pcFree_aluFlagsW (alu op s.a b (s.flag .cf)) s p
  · exact pcFree_aluFlagsW (alu op s.a b (s.flag .cf)) (s.setA (alu op s.a b (s.flag .cf)).result) p

theorem pcFree_aluAccB (op : AluOp) (b : Byte) : PcFreeUpdate fun s => s.aluAccB op b := fun s p => by
  unfold State.aluAccB
  dsimp only
  cases op.stores
  · exact pcFree_aluFlagsB (alu op s.al b (s.flag .cf)) s p
  · exact pcFree_aluFlagsB (alu op s.al b (s.flag .cf)) (s.setAl (alu op s.al b (s.flag .cf)).result) p

theorem pcFree_swapAcc : PcFreeUpdate swapAcc := fun s p => by
  unfold swapAcc
  show (if s.dd then _ else _) = _
  cases s.dd <;> rfl

theorem pcFree_shiftAcc (op : ShiftOp) : PcFreeUpdate (shiftAcc op) := fun s p => by
  unfold shiftAcc
  show (if s.dd then _ else _) = _
  cases s.dd <;> rfl

theorem pcFree_stepSecond {w : Nat} (op : StepOp) (v : BitVec w) : PcFreeUpdate fun s => s.stepSecond op v :=
  fun s p => by
  simp only [State.stepSecond, State.setPc_cfg]
  split <;> rfl

theorem pcFree_stepFlags {w : Nat} (op : StepOp) (b : Bool) (v r : BitVec w) :
    PcFreeUpdate fun s => s.stepFlags op b v r := fun s p => by
  simp only [State.stepFlags]
  cases b && op == .inc
  · exact pcFree_stepSecond op v (s.setFlag .zf (r == 0)) p
  · exact pcFree_stepSecond op v s p

theorem pcFree_wideZero (v low : Nat) : PcFreeUpdate fun s => s.wideZero v low := fun s p => by
  unfold State.wideZero
  dsimp only
  split
  · rfl
  · split <;> rfl

/-! The writes. -/

theorem pcFree_writeByte (ea : Word) (v : Byte) : PcFree fun s => writeByte s ea v := fun s p => by
  simp only [writeByte, State.setPc_cfg]
  cases place s.cfg ea with
  | reg r high => cases r <;> rfl
  | _ => rfl

theorem pcFree_writeWord (ea v : Word) : PcFree fun s => writeWord s ea v :=
  (pcFree_writeByte _ _).andThen fun _ p t => pcFree_writeByte _ _ t p

theorem pcFree_writeW (l : WLoc) (v : Word) : PcFree fun s => writeW s l v := by
  cases l with
  | mem ea => exact pcFree_writeWord ea v
  | _ => exact fun _ _ => rfl

theorem pcFree_writeB (l : BLoc) (v : Byte) : PcFree fun s => writeB s l v := by
  cases l with
  | mem ea => exact pcFree_writeByte ea v
  | _ => exact fun _ _ => rfl

theorem wordLoc_setPc (o : WObj) : PcFreeRead fun s => wordLoc s o := fun _ _ => by cases o <;> rfl

theorem byteLoc_setPc (o : BObj) : PcFreeRead fun s => byteLoc s o := fun _ _ => by cases o <;> rfl

theorem loadW_setPc (o : WObj) : PcFreeRead fun s => loadW s o :=
  (wordLoc_setPc o).bind fun l s p => readW_setPc s p l

theorem loadB_setPc (o : BObj) : PcFreeRead fun s => loadB s o :=
  (byteLoc_setPc o).bind fun l s p => readB_setPc s p l

theorem pcFree_storeW (o : WObj) (v : Word) : PcFree fun s => storeW s o v :=
  .read (wordLoc_setPc o) fun l => pcFree_writeW l v

theorem pcFree_storeB (o : BObj) (v : Byte) : PcFree fun s => storeB s o v :=
  .read (byteLoc_setPc o) fun l => pcFree_writeB l v

theorem pcFree_writeFlagsW (l : WLoc) (v : Word) {f : State → State} (hf : PcFreeUpdate f) :
    PcFree fun s => writeFlagsW s l v f :=
  .ite (c := fun s => l.holdsPswh s.cfg) (fun _ _ => rfl) (fun _ _ => rfl)
    ((pcFree_writeW l v).andThen fun _ p t => PcFree.ok hf t p)

theorem pcFree_writeFlagsB (l : BLoc) (v : Byte) {f : State → State} (hf : PcFreeUpdate f) :
    PcFree fun s => writeFlagsB s l v f :=
  .ite (c := fun s => l.holdsPswh s.cfg) (fun _ _ => rfl) (fun _ _ => rfl)
    ((pcFree_writeB l v).andThen fun _ p t => PcFree.ok hf t p)

theorem pcFree_push16 (v : Word) : PcFree (push16 v) := fun s p => by
  unfold push16
  show (if 2 ≤ s.ssp.toNat then _ else _) = _
  split
  · exact (pcFree_writeWord s.ssp v).andThen (k := fun _ t => .ok { t with ssp := s.ssp - 2 })
      (fun _ _ _ => rfl) s p
  · rfl

theorem pop16_setPc (s : State) (p : Word) :
    pop16 (s.setPc p) = (pop16 s).map fun x => (x.1, x.2.setPc p) := by
  unfold pop16
  show (if s.ssp.toNat + 2 ≤ 0xFFFF then _ else _) = _
  split
  · show (readWord s (s.ssp + 2) >>= _) = Except.map _ (readWord s (s.ssp + 2) >>= _)
    cases readWord s (s.ssp + 2) <;> rfl
  · rfl

/-! The shared operations of the families. -/

theorem pcFree_aluObjW (op : AluOp) (o : WObj) {source : State → Res Word} (h : PcFreeRead source) :
    PcFree (aluObjW op o source) :=
  .read (wordLoc_setPc o) fun l => .read (readW_setPc · · l) fun v => .read h fun b => fun s p => by
    cases op with
    | cmp => exact congrArg Except.ok (pcFree_aluFlagsW _ s p)
    | _ => exact pcFree_writeFlagsW l _ (pcFree_aluFlagsW _) s p

theorem pcFree_aluObjB (op : AluOp) (o : BObj) {source : State → Res Byte} (h : PcFreeRead source) :
    PcFree (aluObjB op o source) :=
  .read (byteLoc_setPc o) fun l => .read (readB_setPc · · l) fun v => .read h fun b => fun s p => by
    cases op with
    | cmp => exact congrArg Except.ok (pcFree_aluFlagsB _ s p)
    | _ => exact pcFree_writeFlagsB l _ (pcFree_aluFlagsB _) s p

theorem pcFree_logicImmB (op : AluOp) (o : BObj) (n : Byte) : PcFree (logicImmB op o n) :=
  .read (byteLoc_setPc o) fun l => .read (readB_setPc · · l) fun v => fun s p =>
    (pcFree_writeB l (alu op v n (s.flag .cf)).result).andThen
      (k := fun s t => .ok (bif l.holdsPswh s.cfg then t else t.aluFlagsB (alu op v n (s.flag .cf))))
      (fun s p t => by
        show Except.ok (bif l.holdsPswh s.cfg then t.setPc p
          else (t.setPc p).aluFlagsB (alu op v n (s.flag .cf))) = _
        rw [show (t.setPc p).aluFlagsB _ = _ from pcFree_aluFlagsB _ t p]
        cases l.holdsPswh s.cfg <;> rfl) s p

theorem pcFree_putTestedBit (o : BObj) (n : BitVec 3) (b : Bool) : PcFree (putTestedBit o n b) :=
  .read (byteLoc_setPc o) fun l => .read (readB_setPc · · l) fun v =>
    (pcFree_writeB l (setBit v n.toNat b)).andThen fun s p t => by
      show Except.ok (bif l.holdsPswh s.cfg then (t.setPc p).freeFlag .zf
        else (t.setPc p).setFlag .zf (!v.getLsbD n.toNat)) = _
      cases l.holdsPswh s.cfg <;> rfl

theorem pcFree_carryToBit (o : BObj) (n : BitVec 3) : PcFree (carryToBit o n) :=
  .read (byteLoc_setPc o) fun l => .read (readB_setPc · · l) fun v => fun s p =>
    pcFree_writeB l (setBit v n.toNat (s.flag .cf)) s p

theorem pcFree_multiply : PcFree multiply :=
  .read (loadW_setPc (.er 0)) fun b => .read (wordLoc_setPc (.er 1)) fun l => fun s p =>
    pcFree_writeFlagsW l (BitVec.ofNat 16 (s.a.toNat * b.toNat / 65536))
      (f := fun t => (t.setA (BitVec.ofNat 16 (s.a.toNat * b.toNat))).wideZero (s.a.toNat * b.toNat)
        (s.a.toNat * b.toNat % 65536))
      (fun t q => pcFree_wideZero _ _ (t.setA _) q) s p

theorem pcFree_divideB : PcFree divideB :=
  .read (loadB_setPc (.r 0)) fun d => .read (byteLoc_setPc (.r 1)) fun l => fun s p => by
    by_cases hd : d = 0
    · simp only [hd, if_true]
      exact pcFree_writeFlagsB l (loByte s.draw.2.draw.1) (f := fun t => (t.setFlag .cf true).freeFlag .zf)
        (fun _ _ => rfl) (s.draw.2.draw.2.setA s.draw.1) p
    · simp only [hd, if_false]
      exact pcFree_writeFlagsB l _ (f := fun t => (t.setFlag .cf false).setFlag .zf _) (fun _ _ => rfl)
        (s.setA (BitVec.ofNat 16 (s.a.toNat / d.toNat))) p

/-- What DIV writes: er0, A, er1 and then the flags. -/
theorem pcFree_quotient (l0 l1 : WLoc) (q1 q0 r : Word) {f : State → State} (hf : PcFreeUpdate f) :
    PcFree fun s => writeW s l0 q1 >>= fun t => writeFlagsW (t.setA q0) l1 r f :=
  (pcFree_writeW l0 q1).andThen fun _ p t => pcFree_writeFlagsW l1 r hf (t.setA q0) p

theorem pcFree_divide : PcFree divide :=
  .read (loadW_setPc (.er 0)) fun hi => .read (loadW_setPc (.er 2)) fun d =>
    .read (wordLoc_setPc (.er 0)) fun l0 => .read (wordLoc_setPc (.er 1)) fun l1 => fun s p => by
    by_cases hd : d = 0
    · simp only [hd, if_true]
      show (if l0.holdsPswh s.cfg then _ else _) = _
      cases l0.holdsPswh s.cfg
      · exact pcFree_quotient l0 l1 s.draw.1 s.draw.2.draw.1 s.draw.2.draw.2.draw.1
          (f := fun t => (t.setFlag .cf true).freeFlag .zf) (fun _ _ => rfl) s.draw.2.draw.2.draw.2 p
      · rfl
    · simp only [hd, if_false]
      show (if l0.holdsPswh s.cfg then _ else _) = _
      cases l0.holdsPswh s.cfg
      · exact pcFree_quotient l0 l1 _ _ _ (f := fun t => (t.setFlag .cf false).wideZero _ _)
          (fun u r => pcFree_wideZero _ _ (u.setFlag .cf false) r) s p
      · rfl

theorem basedAddr_setPc (n : Word) (o : WObj) : PcFreeRead fun s => basedAddr s n o :=
  (loadW_setPc o).bind fun _ _ _ => rfl

theorem pcFree_romLoadW (ra : Word) : PcFree fun s => romLoadW s ra :=
  .read (g := fun s => romWord s ra) (fun _ _ => rfl) fun _ => .ok fun _ _ => rfl

theorem pcFree_romLoadB (ra : Word) : PcFree fun s => romLoadB s ra :=
  .read (g := fun s => romByte s ra.toNat) (fun _ _ => rfl) fun _ => .ok fun _ _ => rfl

theorem pcFree_romCompareW (ra : Word) : PcFree fun s => romCompareW s ra :=
  .read (g := fun s => romWord s ra) (fun _ _ => rfl) fun v => .ok fun s p => pcFree_aluFlagsW (alu .cmp s.a v false) s p

theorem pcFree_romCompareB (ra : Word) : PcFree fun s => romCompareB s ra :=
  .read (g := fun s => romByte s ra.toNat) (fun _ _ => rfl) fun v =>
    .ok fun s p => pcFree_aluFlagsB (alu .cmp s.al v false) s p

/-! The forms that several instructions share. -/

/-- An instruction of `n` bytes that completes at some PC is refused where its next PC would pass FFFFH. -/
def PastEnd (n : Nat) (m : State → Host.Outcome State Fault Refusal) : Prop :=
  ∀ (s : State) (p : Word) (t : State), m (s.setPc p) = .next t → 0xFFFF < s.pc.toNat + n → m s = .refused .pcPastEnd

theorem PcFree.finish {f : State → Res State} (hf : PcFree f) (n : Nat) :
    PastEnd n fun s => Machine.finish n (f s) := fun _ _ _ h hl => hf.pastEnd h hl

theorem PastEnd.iteDd {n : Nat} {m k : State → Host.Outcome State Fault Refusal} (hm : PastEnd n m)
    (hk : PastEnd n k) : PastEnd n fun s => if s.dd then m s else k s := fun s p t h hl => by
  have h' : (if s.dd then m (s.setPc p) else k (s.setPc p)) = .next t := h
  show (if s.dd then m s else k s) = _
  cases hd : s.dd
  · simp only [hd, Bool.false_eq_true, if_false] at h' ⊢; exact hk s p t h' hl
  · simp only [hd, if_true] at h' ⊢; exact hm s p t h' hl

theorem PastEnd.refused (n : Nat) (r : Refusal) : PastEnd n fun _ => outcome (refuse r) := fun _ _ _ h => nomatch h

theorem pastEnd_loadWord (n : Nat) (o : WObj) : PastEnd n (loadWord n o) :=
  PcFree.finish (.read (loadW_setPc o) fun _ => .ok fun _ _ => rfl) n

theorem pastEnd_loadByte (n : Nat) (o : BObj) : PastEnd n (loadByte n o) :=
  PcFree.finish (.read (loadB_setPc o) fun _ => .ok fun _ _ => rfl) n

theorem pastEnd_moveWord (n : Nat) (o d : WObj) : PastEnd n (moveWord n o d) :=
  PcFree.finish (.read (loadW_setPc o) fun v => pcFree_storeW d v) n

theorem pastEnd_moveByte (n : Nat) (o d : BObj) : PastEnd n (moveByte n o d) :=
  PcFree.finish (.read (loadB_setPc o) fun v => pcFree_storeB d v) n

theorem pastEnd_storeAcc (n : Nat) (ow : WObj) (ob : BObj) : PastEnd n (storeAcc n ow ob) :=
  PcFree.finish (f := fun s => if s.dd then storeW s ow s.a else storeB s ob s.al)
    (.ite (fun _ _ => rfl) (fun s p => pcFree_storeW ow s.a s p) fun s p => pcFree_storeB ob s.al s p) n

theorem pastEnd_stepWord (op : StepOp) (n : Nat) (o : WObj) : PastEnd n (stepWord op n o) :=
  PcFree.finish (.read (wordLoc_setPc o) fun l => .read (readW_setPc · · l) fun v => fun s p =>
    pcFree_writeFlagsW l (stepOut op v) (pcFree_stepFlags op (l.isLrb s.cfg) v (stepOut op v)) s p) n

theorem pastEnd_stepByte (op : StepOp) (n : Nat) (o : BObj) : PastEnd n (stepByte op n o) :=
  PcFree.finish (.read (byteLoc_setPc o) fun l => .read (readB_setPc · · l) fun v => fun s p =>
    pcFree_writeFlagsB l (stepOut op v) (pcFree_stepFlags op (l.isLrb s.cfg) v (stepOut op v)) s p) n

theorem pastEnd_shiftWord (op : ShiftOp) (o : WObj) : PastEnd (o.prefixLen + 1) (shiftWord op o) :=
  PcFree.finish (.read (wordLoc_setPc o) fun l => .read (readW_setPc · · l) fun v => fun s p =>
    pcFree_writeFlagsW l (shiftOut op v (s.flag .cf)).1 (f := fun t => t.setFlag .cf (shiftOut op v (s.flag .cf)).2)
      (fun _ _ => rfl) s p) _

theorem pastEnd_shiftByte (op : ShiftOp) (o : BObj) : PastEnd (o.prefixLen + 1) (shiftByte op o) :=
  PcFree.finish (.read (byteLoc_setPc o) fun l => .read (readB_setPc · · l) fun v => fun s p =>
    pcFree_writeFlagsB l (shiftOut op v (s.flag .cf)).1 (f := fun t => t.setFlag .cf (shiftOut op v (s.flag .cf)).2)
      (fun _ _ => rfl) s p) _

theorem pastEnd_aluReg (op : AluOp) (r : BitVec 3) : PastEnd 1 (aluReg op r) :=
  PcFree.finish (f := fun s => if s.dd then wordRegister r >>= fun e => loadW s (.er e) >>= fun v => .ok (s.aluAccW op v)
      else loadB s (.r r) >>= fun v => .ok (s.aluAccB op v))
    (.ite (fun _ _ => rfl)
      (.read (g := fun _ => wordRegister r) (fun _ _ => rfl) fun e => .read (loadW_setPc (.er e)) fun v =>
        .ok (pcFree_aluAccW op v))
      (.read (loadB_setPc (.r r)) fun v => .ok (pcFree_aluAccB op v))) 1

theorem pastEnd_aluOff (op : AluOp) (n : Byte) : PastEnd 2 (aluOff op n) :=
  PcFree.finish (f := fun s => if s.dd then loadW s (.off n) >>= fun v => .ok (s.aluAccW op v)
      else loadB s (.off n) >>= fun v => .ok (s.aluAccB op v))
    (.ite (fun _ _ => rfl) (.read (loadW_setPc (.off n)) fun v => .ok (pcFree_aluAccW op v))
      (.read (loadB_setPc (.off n)) fun v => .ok (pcFree_aluAccB op v))) 2

theorem pastEnd_aluAObjW (op : AluOp) (o : WObj) : PastEnd (o.prefixLen + 1) (aluAObjW op o) :=
  .iteDd (PcFree.finish (.read (loadW_setPc o) fun v => .ok (pcFree_aluAccW op v)) _) (.refused _ _)

theorem pastEnd_aluAObjB (op : AluOp) (o : BObj) : PastEnd (o.prefixLen + 1) (aluAObjB op o) :=
  .iteDd (.refused _ _) (PcFree.finish (.read (loadB_setPc o) fun v => .ok (pcFree_aluAccB op v)) _)

end Sys2Proof.Machine
end

