-- ==== Sys2Proof/Tests/Slice0.lean ====
section
/-! SUPPORT. The tests: ill-formed terms, one code of every constructor written out from the spec's encoding of it,
one step at a time on the worked vectors of spec/95_test_vectors.md, and witnesses for the hypotheses of the
statements. -/

set_option Elab.async false
set_option linter.unusedVariables false

namespace Sys2Proof.Tests
open Sys2Proof.Machine

/-- The small state of these tests: LRB = 0018H, SSP = 027EH, PC = 0200H, the given A, PSW and data bytes. -/
def small (a psw : Word) (cells : List (Nat × Byte)) : State :=
  { State.reset with a := a, psw := psw, lrb := 0x0018#13, ssp := 0x027E#16, pc := 0x0200#16, ram := cells.foldl (fun m c => Memory.write m c.1 c.2) [] }

/-- The state after one step at `s` with these bytes at PC. -/
def after (bs : List Byte) (s : State) : Option State :=
  match step (s.placeAtPc bs) with
  | .next t => some t
  | _ => none

/-- Why one step at `s` with these bytes at PC stops. -/
def stop (bs : List Byte) (s : State) : Option Stop :=
  match step (s.placeAtPc bs) with
  | .next _ => none
  | .fault f => some (.fault f)
  | .refused r => some (.refusal r)

/-- Whether each of these codes decodes, under its DD, to exactly the instruction beside it. -/
def decodesAs (rows : List (Bool × List Byte × Instr)) : Bool :=
  rows.all fun r => decode Opcodes.candidate r.1 r.2.1 == .instr r.2.2 r.2.1.length

/-- A legal setting with no code set and no register address. -/
def bare : Config :=
  { Config.candidate with
    opcodes := ⟨none, none, none, none, none, none, none, none⟩
    addrSsp := none
    addrLrb := none
    addrPsw := none
    addrAcc := none
    cfBit := 8
    zfBit := 9
    hcBit := 15
    sfBit := 3
    incDecFlag := .cf }

/-! An ill-formed term for each check of Instr.wellFormed. -/

theorem test_ill_formed_mov_obj_a : ([WObj.x1, .x2, .dp].all fun o => !(Instr.movObjA o).wellFormed Opcodes.candidate) = true := by decide

theorem test_ill_formed_step_objects : ([WObj.x1, .x2, .dp, .lrb].all fun o =>
    !(Instr.movObjImm o 0#16).wellFormed Opcodes.candidate && !(Instr.incObj o).wellFormed Opcodes.candidate &&
      !(Instr.decObj o).wellFormed Opcodes.candidate) = true := by decide

theorem test_ill_formed_byte_register : ([Instr.movbObjImm (.r 0) 0#8, .incbObj (.r 7), .decbObj (.r 1), .addbAObj (.r 2),
    .adcbAObj (.r 3), .subbAObj (.r 4), .sbcbAObj (.r 5), .cmpbAObj (.r 6), .andbAObj (.r 7), .orbAObj (.r 0)].all fun i =>
      !i.wellFormed Opcodes.candidate) = true := by decide

theorem test_ill_formed_word_register : ([Instr.addAObj (.er 0), .adcAObj (.er 1), .subAObj (.er 2), .sbcAObj (.er 3),
    .cmpAObj (.er 0), .andAObj (.er 1), .orAObj (.er 2)].all fun i => !i.wellFormed Opcodes.candidate) = true := by decide

theorem test_ill_formed_base : ([WObj.er 0, .ssp, .lrb, .dpInd, .uspInd 0#8, .x1Ind 0#16, .x2Ind 0#16].all fun o =>
    !(Instr.lcBased o 0#16).wellFormed Opcodes.candidate && !(Instr.lcbBased o 0#16).wellFormed Opcodes.candidate &&
      !(Instr.cmpcBased o 0#16).wellFormed Opcodes.candidate && !(Instr.cmpcbBased o 0#16).wellFormed Opcodes.candidate) = true := by
  decide

theorem test_ill_formed_unset_code : ([Instr.scal 0#8, .rolA, .rolbA, .srlA, .srlbA, .pushsA, .popsA, .popsLrb, .incLrb,
    .decLrb].all fun i => !i.wellFormed bare.opcodes && (encode bare.opcodes i).isNone) = true := by decide

theorem test_ill_formed_paired_prefix : ([Instr.wpEr 0 0x99#8, .wpX1 0x35#8, .wpX2 0x99#8, .wpDp 0x99#8, .wpSsp 0x22#8,
    .wpUsp 0x80#8, .wpLrb 0xB7#8, .wpX1Ind 0#16 0x15#8, .wpX2Ind 0#16 0x16#8, .wpDpInd 0xAA#8, .wpUspInd 0#8 0x7C#8,
    .wpOff 0#8 0x83#8, .wpZp 0#8 0x23#8, .bpR 0 0x99#8, .bpPswh 0x34#8, .bpPswl 0x88#8, .bpX1Ind 0#16 0x11#8,
    .bpX2Ind 0#16 0x18#8, .bpDpInd 0x3F#8, .bpUspInd 0#8 0x20#8, .bpOff 0#8 0x8A#8, .bpZp 0#8 0x17#8].all fun i =>
      !i.wellFormed Opcodes.candidate) = true := by decide +kernel

theorem test_ill_formed_illegal : (!(Instr.illegal 0x00#8).wellFormed Opcodes.candidate &&
    !(Instr.illegal 0x31#8).wellFormed Opcodes.candidate && (Instr.illegal 0x31#8).wellFormed bare.opcodes) = true := by decide +kernel

/-- A code that is no instruction decodes to the row of its prefix, or of its byte, never to a neighbour (R135). -/
theorem test_refused_codes : decodesAs
    [(false, [0x90#8, 0x8A#8], .wpX1 0x8A#8), (false, [0x91#8, 0x35#8], .wpX2 0x35#8), (false, [0xA3#8, 0x34#8], .bpPswl 0x34#8),
    (true, [0x44#8, 0x82#8], .wpEr 0 0x82#8), (false, [0x20#8, 0x98#8], .bpR 0 0x98#8), (false, [0xA0#8, 0xA9#8], .wpSsp 0xA9#8),
    (false, [0x04#8], .illegal 0x04#8)] = true := by decide +kernel

/-! Codes written out from the encodings of spec/40 to spec/52, one for each constructor. -/

theorem test_decode_data_transfer_1 : decodesAs
    [(false, [0x67#8, 0x34#8, 0x92#8], .lImm 0x9234#16),
    (false, [0x37#8], .lEr 3),
    (false, [0xE0#8, 0x34#8, 0x92#8], .lX1Ind 0x9234#16),
    (false, [0xE1#8, 0x34#8, 0x92#8], .lX2Ind 0x9234#16),
    (false, [0xE3#8, 0xC3#8], .lUspInd 0xC3#8),
    (false, [0xE4#8, 0xC3#8], .lOff 0xC3#8),
    (false, [0xE5#8, 0xC3#8], .lZp 0xC3#8),
    (false, [0x77#8, 0xC3#8], .lbImm 0xC3#8),
    (false, [0x7E#8], .lbR 6),
    (false, [0xF0#8, 0x34#8, 0x92#8], .lbX1Ind 0x9234#16),
    (false, [0xF1#8, 0x34#8, 0x92#8], .lbX2Ind 0x9234#16),
    (false, [0xF3#8, 0xC3#8], .lbUspInd 0xC3#8),
    (false, [0xF4#8, 0xC3#8], .lbOff 0xC3#8),
    (false, [0xF5#8, 0xC3#8], .lbZp 0xC3#8),
    (true, [0x8B#8], .stEr 3),
    (false, [0x8E#8], .stbR 6),
    (true, [0xD0#8, 0x34#8, 0x92#8], .stX1Ind 0x9234#16),
    (false, [0xD0#8, 0x34#8, 0x92#8], .stbX1Ind 0x9234#16),
    (true, [0xD1#8, 0x34#8, 0x92#8], .stX2Ind 0x9234#16),
    (false, [0xD1#8, 0x34#8, 0x92#8], .stbX2Ind 0x9234#16),
    (true, [0xD3#8, 0xC3#8], .stUspInd 0xC3#8),
    (false, [0xD3#8, 0xC3#8], .stbUspInd 0xC3#8),
    (true, [0xD4#8, 0xC3#8], .stOff 0xC3#8),
    (false, [0xD4#8, 0xC3#8], .stbOff 0xC3#8)] = true := by decide +kernel

theorem test_decode_data_transfer_2 : decodesAs
    [(true, [0xD5#8, 0xC3#8], .stZp 0xC3#8),
    (false, [0xD5#8, 0xC3#8], .stbZp 0xC3#8),
    (false, [0x47#8, 0x99#8], .movAObj (.er 3)),
    (false, [0xA1#8, 0x8A#8], .movObjA .usp),
    (false, [0x60#8, 0x34#8, 0x92#8], .movX1Imm 0x9234#16),
    (false, [0x61#8, 0x34#8, 0x92#8], .movX2Imm 0x9234#16),
    (false, [0x62#8, 0x34#8, 0x92#8], .movDpImm 0x9234#16),
    (false, [0x57#8, 0x34#8, 0x92#8], .movLrbImm 0x9234#16),
    (false, [0xA0#8, 0x98#8, 0x34#8, 0x92#8], .movObjImm .ssp 0x9234#16),
    (false, [0x91#8, 0x78#8], .movX1Obj .x2),
    (false, [0xA1#8, 0x79#8], .movX2Obj .usp),
    (false, [0xA0#8, 0x7A#8], .movDpObj .ssp),
    (false, [0xA4#8, 0x7B#8], .movUspObj .lrb),
    (false, [0xB4#8, 0xFE#8, 0x7E#8], .movSspObj (.off 0xFE#8)),
    (false, [0xB5#8, 0x81#8, 0x7F#8], .movLrbObj (.zp 0x81#8)),
    (false, [0xB2#8, 0x4B#8], .movErObj 3 .dpInd),
    (false, [0xB3#8, 0x80#8, 0x7C#8, 0xC3#8], .movOffObj 0xC3#8 (.uspInd 0x80#8)),
    (false, [0xB0#8, 0xAB#8, 0x89#8, 0x7D#8], .movPswObj (.x1Ind 0x89AB#16)),
    (false, [0xC4#8, 0xFE#8, 0x99#8], .movbAObj (.off 0xFE#8)),
    (false, [0xC5#8, 0x81#8, 0x8A#8], .movbObjA (.zp 0x81#8)),
    (false, [0x9E#8, 0xC3#8], .movbRImm 6 0xC3#8),
    (false, [0xC0#8, 0xAB#8, 0x89#8, 0x98#8, 0xC3#8], .movbObjImm (.x1Ind 0x89AB#16) 0xC3#8),
    (false, [0xC3#8, 0x80#8, 0x4E#8], .movbRObj 6 (.uspInd 0x80#8)),
    (false, [0xC0#8, 0xAB#8, 0x89#8, 0x7C#8, 0xC3#8], .movbOffObj 0xC3#8 (.x1Ind 0x89AB#16))] = true := by decide +kernel

theorem test_decode_data_transfer_3 : decodesAs
    [(false, [0xC1#8, 0x21#8, 0x43#8, 0x89#8], .movbPswhObj (.x2Ind 0x4321#16)),
    (false, [0x25#8, 0x88#8], .movbPswlObj (.r 5)),
    (false, [0xA4#8, 0x15#8], .clrObj .lrb),
    (false, [0xA3#8, 0x15#8], .clrbObj .pswl),
    (true, [0xB5#8, 0x81#8, 0x10#8], .xchgAObj (.zp 0x81#8)),
    (false, [0xC5#8, 0x81#8, 0x10#8], .xchgbAObj (.zp 0x81#8)),
    (false, [0x84#8, 0xC3#8], .xnblAOff 0xC3#8),
    (false, [0x40#8], .lX1),
    (false, [0x41#8], .lX2),
    (false, [0x42#8], .lDp),
    (false, [0xE2#8], .lDpInd),
    (false, [0xF2#8], .lbDpInd),
    (true, [0xD2#8], .stDpInd),
    (false, [0xD2#8], .stbDpInd),
    (false, [0x50#8], .movX1A),
    (false, [0x51#8], .movX2A),
    (false, [0x52#8], .movDpA),
    (false, [0xF9#8], .clrA),
    (false, [0xFA#8], .clrbA),
    (true, [0x83#8], .swap),
    (false, [0x83#8], .swapb)] = true := by decide +kernel

theorem test_decode_shifts : decodesAs
    [(false, [0xB3#8, 0x80#8, 0xB7#8], .rolObj (.uspInd 0x80#8)),
    (false, [0xC3#8, 0x80#8, 0xB7#8], .rolbObj (.uspInd 0x80#8)),
    (false, [0xB1#8, 0x21#8, 0x43#8, 0xC7#8], .rorObj (.x2Ind 0x4321#16)),
    (false, [0xC1#8, 0x21#8, 0x43#8, 0xC7#8], .rorbObj (.x2Ind 0x4321#16)),
    (false, [0x92#8, 0xD7#8], .sllObj .dp),
    (false, [0xA2#8, 0xD7#8], .sllbObj .pswh),
    (false, [0x91#8, 0xE7#8], .srlObj .x2),
    (false, [0xC4#8, 0xFE#8, 0xE7#8], .srlbObj (.off 0xFE#8)),
    (false, [0xA0#8, 0xF7#8], .sraObj .ssp),
    (false, [0xC2#8, 0xF7#8], .srabObj .dpInd),
    (true, [0x33#8], .rolA),
    (false, [0x33#8], .rolbA),
    (true, [0x43#8], .rorA),
    (false, [0x43#8], .rorbA),
    (true, [0x53#8], .sllA),
    (false, [0x53#8], .sllbA),
    (true, [0x63#8], .srlA),
    (false, [0x63#8], .srlbA),
    (true, [0x73#8], .sraA),
    (false, [0x73#8], .srabA)] = true := by decide +kernel

theorem test_decode_inc_dec : decodesAs
    [(false, [0xB3#8, 0x80#8, 0x16#8], .incObj (.uspInd 0x80#8)),
    (false, [0xAE#8], .incbR 6),
    (false, [0xC4#8, 0xFE#8, 0x16#8], .incbObj (.off 0xFE#8)),
    (false, [0xB1#8, 0x21#8, 0x43#8, 0x17#8], .decObj (.x2Ind 0x4321#16)),
    (false, [0xBE#8], .decbR 6),
    (false, [0xC2#8, 0x17#8], .decbObj .dpInd),
    (false, [0x70#8], .incX1),
    (false, [0x71#8], .incX2),
    (false, [0x72#8], .incDp),
    (false, [0xFD#8], .incLrb),
    (false, [0x80#8], .decX1),
    (false, [0x81#8], .decX2),
    (false, [0x82#8], .decDp),
    (false, [0xFE#8], .decLrb)] = true := by decide +kernel

theorem test_decode_rom_table : decodesAs
    [(false, [0x90#8, 0x9C#8, 0x34#8, 0x92#8], .lcDirect 0x9234#16),
    (false, [0xB0#8, 0xAB#8, 0x89#8, 0xA8#8], .lcInd (.x1Ind 0x89AB#16)),
    (false, [0x91#8, 0xA9#8, 0x34#8, 0x92#8], .lcBased .x2 0x9234#16),
    (false, [0x90#8, 0x9D#8, 0x34#8, 0x92#8], .lcbDirect 0x9234#16),
    (false, [0x47#8, 0xAA#8], .lcbInd (.er 3)),
    (false, [0xB4#8, 0xFE#8, 0xAB#8, 0x34#8, 0x92#8], .lcbBased (.off 0xFE#8) 0x9234#16),
    (false, [0x90#8, 0x9E#8, 0x34#8, 0x92#8], .cmpcDirect 0x9234#16),
    (false, [0x90#8, 0xAC#8], .cmpcInd .x1),
    (false, [0x92#8, 0xAD#8, 0x34#8, 0x92#8], .cmpcBased .dp 0x9234#16),
    (false, [0x90#8, 0x9F#8, 0x34#8, 0x92#8], .cmpcbDirect 0x9234#16),
    (false, [0xA1#8, 0xAE#8], .cmpcbInd .usp),
    (false, [0x91#8, 0xAF#8, 0x34#8, 0x92#8], .cmpcbBased .x2 0x9234#16)] = true := by decide +kernel

theorem test_decode_arithmetic_1 : decodesAs
    [(true, [0x86#8, 0x34#8, 0x92#8], .addAImm 0x9234#16),
    (false, [0x86#8, 0xC3#8], .addbAImm 0xC3#8),
    (true, [0x0B#8], .addAEr 3),
    (false, [0x0E#8], .addbAR 6),
    (true, [0x87#8, 0xC3#8], .addAOff 0xC3#8),
    (false, [0x87#8, 0xC3#8], .addbAOff 0xC3#8),
    (true, [0x90#8, 0x82#8], .addAObj .x1),
    (false, [0xC3#8, 0x80#8, 0x82#8], .addbAObj (.uspInd 0x80#8)),
    (false, [0xB5#8, 0x81#8, 0x81#8], .addObjA (.zp 0x81#8)),
    (false, [0xC4#8, 0xFE#8, 0x81#8], .addbObjA (.off 0xFE#8)),
    (false, [0xB3#8, 0x80#8, 0x83#8, 0xC3#8], .addObjOff (.uspInd 0x80#8) 0xC3#8),
    (false, [0xC2#8, 0x83#8, 0xC3#8], .addbObjOff .dpInd 0xC3#8),
    (false, [0xB1#8, 0x21#8, 0x43#8, 0x80#8, 0x34#8, 0x92#8], .addObjImm (.x2Ind 0x4321#16) 0x9234#16),
    (false, [0xC0#8, 0xAB#8, 0x89#8, 0x80#8, 0xC3#8], .addbObjImm (.x1Ind 0x89AB#16) 0xC3#8),
    (true, [0x96#8, 0x34#8, 0x92#8], .adcAImm 0x9234#16),
    (false, [0x96#8, 0xC3#8], .adcbAImm 0xC3#8),
    (true, [0x1B#8], .adcAEr 3),
    (false, [0x1E#8], .adcbAR 6),
    (true, [0x97#8, 0xC3#8], .adcAOff 0xC3#8),
    (false, [0x97#8, 0xC3#8], .adcbAOff 0xC3#8),
    (true, [0xB0#8, 0xAB#8, 0x89#8, 0x92#8], .adcAObj (.x1Ind 0x89AB#16)),
    (false, [0xC0#8, 0xAB#8, 0x89#8, 0x92#8], .adcbAObj (.x1Ind 0x89AB#16)),
    (false, [0x91#8, 0x91#8], .adcObjA .x2),
    (false, [0xA3#8, 0x91#8], .adcbObjA .pswl)] = true := by decide +kernel

theorem test_decode_arithmetic_2 : decodesAs
    [(false, [0xA0#8, 0x93#8, 0xC3#8], .adcObjOff .ssp 0xC3#8),
    (false, [0xC5#8, 0x81#8, 0x93#8, 0xC3#8], .adcbObjOff (.zp 0x81#8) 0xC3#8),
    (false, [0xB4#8, 0xFE#8, 0x90#8, 0x34#8, 0x92#8], .adcObjImm (.off 0xFE#8) 0x9234#16),
    (false, [0xC3#8, 0x80#8, 0x90#8, 0xC3#8], .adcbObjImm (.uspInd 0x80#8) 0xC3#8),
    (true, [0xA6#8, 0x34#8, 0x92#8], .subAImm 0x9234#16),
    (false, [0xA6#8, 0xC3#8], .subbAImm 0xC3#8),
    (true, [0x2B#8], .subAEr 3),
    (false, [0x2E#8], .subbAR 6),
    (true, [0xA7#8, 0xC3#8], .subAOff 0xC3#8),
    (false, [0xA7#8, 0xC3#8], .subbAOff 0xC3#8),
    (true, [0xB5#8, 0x81#8, 0xA2#8], .subAObj (.zp 0x81#8)),
    (false, [0xC1#8, 0x21#8, 0x43#8, 0xA2#8], .subbAObj (.x2Ind 0x4321#16)),
    (false, [0xB0#8, 0xAB#8, 0x89#8, 0xA1#8], .subObjA (.x1Ind 0x89AB#16)),
    (false, [0xA2#8, 0xA1#8], .subbObjA .pswh),
    (false, [0x47#8, 0xA3#8, 0xC3#8], .subObjOff (.er 3) 0xC3#8),
    (false, [0xC4#8, 0xFE#8, 0xA3#8, 0xC3#8], .subbObjOff (.off 0xFE#8) 0xC3#8),
    (false, [0x90#8, 0xA0#8, 0x34#8, 0x92#8], .subObjImm .x1 0x9234#16),
    (false, [0xC2#8, 0xA0#8, 0xC3#8], .subbObjImm .dpInd 0xC3#8),
    (true, [0xB6#8, 0x34#8, 0x92#8], .sbcAImm 0x9234#16),
    (false, [0xB6#8, 0xC3#8], .sbcbAImm 0xC3#8),
    (true, [0x3B#8], .sbcAEr 3),
    (false, [0x3E#8], .sbcbAR 6),
    (true, [0xB7#8, 0xC3#8], .sbcAOff 0xC3#8),
    (false, [0xB7#8, 0xC3#8], .sbcbAOff 0xC3#8)] = true := by decide +kernel

theorem test_decode_arithmetic_3 : decodesAs
    [(true, [0xA1#8, 0xB2#8], .sbcAObj .usp),
    (false, [0xA2#8, 0xB2#8], .sbcbAObj .pswh),
    (false, [0xA4#8, 0xB1#8], .sbcObjA .lrb),
    (false, [0x25#8, 0xB1#8], .sbcbObjA (.r 5)),
    (false, [0xB5#8, 0x81#8, 0xB3#8, 0xC3#8], .sbcObjOff (.zp 0x81#8) 0xC3#8),
    (false, [0xA3#8, 0xB3#8, 0xC3#8], .sbcbObjOff .pswl 0xC3#8),
    (false, [0xB3#8, 0x80#8, 0xB0#8, 0x34#8, 0x92#8], .sbcObjImm (.uspInd 0x80#8) 0x9234#16),
    (false, [0xC5#8, 0x81#8, 0xB0#8, 0xC3#8], .sbcbObjImm (.zp 0x81#8) 0xC3#8),
    (false, [0x90#8, 0x35#8], .mul),
    (false, [0xA2#8, 0x34#8], .mulb),
    (false, [0x90#8, 0x37#8], .div),
    (false, [0xA2#8, 0x36#8], .divb)] = true := by decide +kernel

theorem test_decode_compare : decodesAs
    [(true, [0xC6#8, 0x34#8, 0x92#8], .cmpAImm 0x9234#16),
    (false, [0xC6#8, 0xC3#8], .cmpbAImm 0xC3#8),
    (true, [0x4B#8], .cmpAEr 3),
    (false, [0x4E#8], .cmpbAR 6),
    (true, [0xC7#8, 0xC3#8], .cmpAOff 0xC3#8),
    (false, [0xC7#8, 0xC3#8], .cmpbAOff 0xC3#8),
    (true, [0x92#8, 0xC2#8], .cmpAObj .dp),
    (false, [0xA3#8, 0xC2#8], .cmpbAObj .pswl),
    (false, [0x92#8, 0xC1#8], .cmpObjA .dp),
    (false, [0xC1#8, 0x21#8, 0x43#8, 0xC1#8], .cmpbObjA (.x2Ind 0x4321#16)),
    (false, [0x91#8, 0xC3#8, 0xC3#8], .cmpObjOff .x2 0xC3#8),
    (false, [0xA2#8, 0xC3#8, 0xC3#8], .cmpbObjOff .pswh 0xC3#8),
    (false, [0xA0#8, 0xC0#8, 0x34#8, 0x92#8], .cmpObjImm .ssp 0x9234#16),
    (false, [0xC4#8, 0xFE#8, 0xC0#8, 0xC3#8], .cmpbObjImm (.off 0xFE#8) 0xC3#8)] = true := by decide +kernel

theorem test_decode_logic_1 : decodesAs
    [(true, [0xD6#8, 0x34#8, 0x92#8], .andAImm 0x9234#16),
    (false, [0xD6#8, 0xC3#8], .andbAImm 0xC3#8),
    (true, [0x5B#8], .andAEr 3),
    (false, [0x5E#8], .andbAR 6),
    (true, [0xD7#8, 0xC3#8], .andAOff 0xC3#8),
    (false, [0xD7#8, 0xC3#8], .andbAOff 0xC3#8),
    (true, [0xB3#8, 0x80#8, 0xD2#8], .andAObj (.uspInd 0x80#8)),
    (false, [0xC5#8, 0x81#8, 0xD2#8], .andbAObj (.zp 0x81#8)),
    (false, [0xB2#8, 0xD1#8], .andObjA .dpInd),
    (false, [0xC0#8, 0xAB#8, 0x89#8, 0xD1#8], .andbObjA (.x1Ind 0x89AB#16)),
    (false, [0xB0#8, 0xAB#8, 0x89#8, 0xD3#8, 0xC3#8], .andObjOff (.x1Ind 0x89AB#16) 0xC3#8),
    (false, [0x25#8, 0xD3#8, 0xC3#8], .andbObjOff (.r 5) 0xC3#8),
    (false, [0x47#8, 0xD0#8, 0x34#8, 0x92#8], .andObjImm (.er 3) 0x9234#16),
    (false, [0xA3#8, 0xD0#8, 0xC3#8], .andbObjImm .pswl 0xC3#8),
    (true, [0xE6#8, 0x34#8, 0x92#8], .orAImm 0x9234#16),
    (false, [0xE6#8, 0xC3#8], .orbAImm 0xC3#8),
    (true, [0x6B#8], .orAEr 3),
    (false, [0x6E#8], .orbAR 6),
    (true, [0xE7#8, 0xC3#8], .orAOff 0xC3#8),
    (false, [0xE7#8, 0xC3#8], .orbAOff 0xC3#8),
    (true, [0xA4#8, 0xE2#8], .orAObj .lrb),
    (false, [0xC2#8, 0xE2#8], .orbAObj .dpInd),
    (false, [0xA1#8, 0xE1#8], .orObjA .usp),
    (false, [0xC3#8, 0x80#8, 0xE1#8], .orbObjA (.uspInd 0x80#8))] = true := by decide +kernel

theorem test_decode_logic_2 : decodesAs
    [(false, [0xA4#8, 0xE3#8, 0xC3#8], .orObjOff .lrb 0xC3#8),
    (false, [0xC1#8, 0x21#8, 0x43#8, 0xE3#8, 0xC3#8], .orbObjOff (.x2Ind 0x4321#16) 0xC3#8),
    (false, [0xB5#8, 0x81#8, 0xE0#8, 0x34#8, 0x92#8], .orObjImm (.zp 0x81#8) 0x9234#16),
    (false, [0xA2#8, 0xE0#8, 0xC3#8], .orbObjImm .pswh 0xC3#8),
    (true, [0xF6#8, 0x34#8, 0x92#8], .xorAImm 0x9234#16),
    (false, [0xF6#8, 0xC3#8], .xorbAImm 0xC3#8),
    (true, [0xF7#8, 0xC3#8], .xorAOff 0xC3#8),
    (false, [0xF7#8, 0xC3#8], .xorbAOff 0xC3#8),
    (true, [0xA0#8, 0xF2#8], .xorAObj .ssp),
    (false, [0xC0#8, 0xAB#8, 0x89#8, 0xF2#8], .xorbAObj (.x1Ind 0x89AB#16)),
    (false, [0xB1#8, 0x21#8, 0x43#8, 0xF1#8], .xorObjA (.x2Ind 0x4321#16)),
    (false, [0xC2#8, 0xF1#8], .xorbObjA .dpInd),
    (false, [0x92#8, 0xF3#8, 0xC3#8], .xorObjOff .dp 0xC3#8),
    (false, [0xC0#8, 0xAB#8, 0x89#8, 0xF3#8, 0xC3#8], .xorbObjOff (.x1Ind 0x89AB#16) 0xC3#8),
    (false, [0x91#8, 0xF0#8, 0x34#8, 0x92#8], .xorObjImm .x2 0x9234#16),
    (false, [0x25#8, 0xF0#8, 0xC3#8], .xorbObjImm (.r 5) 0xC3#8)] = true := by decide +kernel

theorem test_decode_bits : decodesAs
    [(false, [0xA2#8, 0x1E#8], .sbBit .pswh 6),
    (false, [0xA3#8, 0x0E#8], .rbBit .pswl 6),
    (false, [0xC4#8, 0xFE#8, 0x2E#8], .mbCBit (.off 0xFE#8) 6),
    (false, [0xC5#8, 0x81#8, 0x3E#8], .mbBitC (.zp 0x81#8) 6),
    (false, [0xC2#8, 0x11#8], .sbrObj .dpInd),
    (false, [0xC3#8, 0x80#8, 0x12#8], .rbrObj (.uspInd 0x80#8)),
    (false, [0xC0#8, 0xAB#8, 0x89#8, 0x13#8], .tbrObj (.x1Ind 0x89AB#16)),
    (false, [0xC1#8, 0x21#8, 0x43#8, 0x21#8], .mbrCObj (.x2Ind 0x4321#16)),
    (false, [0x25#8, 0x20#8], .mbrObjC (.r 5))] = true := by decide +kernel

theorem test_decode_jump_call : decodesAs
    [(false, [0xCB#8, 0x85#8], .sj 0x85#8),
    (false, [0x03#8, 0x56#8, 0xF0#8], .jAddr 0xF056#16),
    (false, [0x92#8, 0x22#8], .jObj .dp),
    (false, [0xC8#8, 0x85#8], .jcGt 0x85#8),
    (false, [0xC9#8, 0x85#8], .jcEq 0x85#8),
    (false, [0xCA#8, 0x85#8], .jcLt 0x85#8),
    (false, [0xCD#8, 0x85#8], .jcGe 0x85#8),
    (false, [0xCE#8, 0x85#8], .jcNe 0x85#8),
    (false, [0xCF#8, 0x85#8], .jcLe 0x85#8),
    (false, [0xEE#8, 0xC3#8, 0x85#8], .jbs 6 0xC3#8 0x85#8),
    (false, [0xDE#8, 0xC3#8, 0x85#8], .jbr 6 0xC3#8 0x85#8),
    (false, [0x30#8, 0x85#8], .jrnz 0x85#8),
    (false, [0x31#8, 0x85#8], .scal 0x85#8),
    (false, [0x32#8, 0x56#8, 0xF0#8], .calAddr 0xF056#16),
    (false, [0x90#8, 0x23#8], .calObj .x1),
    (false, [0x16#8], .vcal 6),
    (false, [0x01#8], .rt),
    (false, [0x02#8], .rti)] = true := by decide +kernel

theorem test_decode_prefix_and_illegal : decodesAs
    [(false, [0x47#8, 0x00#8], .wpEr 3 0x00#8),
    (false, [0x90#8, 0x00#8], .wpX1 0x00#8),
    (false, [0x91#8, 0x00#8], .wpX2 0x00#8),
    (false, [0x92#8, 0x00#8], .wpDp 0x00#8),
    (false, [0xA0#8, 0x00#8], .wpSsp 0x00#8),
    (false, [0xA1#8, 0x00#8], .wpUsp 0x00#8),
    (false, [0xA4#8, 0x00#8], .wpLrb 0x00#8),
    (false, [0xB0#8, 0x34#8, 0x92#8, 0x00#8], .wpX1Ind 0x9234#16 0x00#8),
    (false, [0xB1#8, 0x34#8, 0x92#8, 0x00#8], .wpX2Ind 0x9234#16 0x00#8),
    (false, [0xB2#8, 0x00#8], .wpDpInd 0x00#8),
    (false, [0xB3#8, 0xC3#8, 0x00#8], .wpUspInd 0xC3#8 0x00#8),
    (false, [0xB4#8, 0xC3#8, 0x00#8], .wpOff 0xC3#8 0x00#8),
    (false, [0xB5#8, 0xC3#8, 0x00#8], .wpZp 0xC3#8 0x00#8),
    (false, [0x26#8, 0x00#8], .bpR 6 0x00#8),
    (false, [0xA2#8, 0x00#8], .bpPswh 0x00#8),
    (false, [0xA3#8, 0x00#8], .bpPswl 0x00#8),
    (false, [0xC0#8, 0x34#8, 0x92#8, 0x00#8], .bpX1Ind 0x9234#16 0x00#8),
    (false, [0xC1#8, 0x34#8, 0x92#8, 0x00#8], .bpX2Ind 0x9234#16 0x00#8),
    (false, [0xC2#8, 0x00#8], .bpDpInd 0x00#8),
    (false, [0xC3#8, 0xC3#8, 0x00#8], .bpUspInd 0xC3#8 0x00#8),
    (false, [0xC4#8, 0xC3#8, 0x00#8], .bpOff 0xC3#8 0x00#8),
    (false, [0xC5#8, 0xC3#8, 0x00#8], .bpZp 0xC3#8 0x00#8),
    (false, [0x06#8], .illegal 0x06#8)] = true := by decide +kernel

theorem test_decode_stack : decodesAs
    [(false, [0x55#8], .pushsA),
    (false, [0x54#8], .pushsLrb),
    (false, [0x65#8], .popsA),
    (false, [0x64#8], .popsLrb)] = true := by decide +kernel

theorem test_decode_decimal_and_extend : decodesAs
    [(false, [0x93#8], .daa),
    (false, [0x94#8], .das),
    (false, [0xF8#8], .extnd)] = true := by decide +kernel

theorem test_decode_other : decodesAs
    [(false, [0x85#8], .sc),
    (false, [0x95#8], .rc),
    (false, [0xFF#8], .brk),
    (false, [0x00#8], .nop)] = true := by decide +kernel

/-! One step each, from the vectors of spec/95_test_vectors.md (where a free value has entered PSW, the other flags are
not read). -/

/-- spec/95_test_vectors.md B1 1 -/
theorem test_l_imm_zero : (after [0x67#8, 0x00#8, 0x00#8] (small 0x0000#16 0x0000#16 [])).any (fun t =>
    t.a == 0x0000#16 && t.flag .zf && t.dd && t.pc == 0x0203#16) = true := by decide +kernel

/-- spec/95_test_vectors.md B1 2 -/
theorem test_l_er1 : (after [0x35#8] (small 0x0000#16 0x0000#16 [(0x00C2, 0xCD#8), (0x00C3, 0xAB#8)])).any (fun t =>
    t.a == 0xABCD#16 && !t.flag .zf && t.dd) = true := by decide +kernel

/-- spec/95_test_vectors.md B1 3 -/
theorem test_l_off_odd : (after [0xE4#8, 0xC1#8] (small 0x0000#16 0x0000#16 [(0x00C0, 0x34#8), (0x00C1, 0x12#8)])).any (fun t =>
    t.a == 0x1234#16) = true := by decide +kernel

/-- spec/95_test_vectors.md B1 4 -/
theorem test_l_dp_indirect_odd : (after [0xE2#8] (small 0x0000#16 0x0000#16 [(0x0084, 0x01#8), (0x0085, 0x02#8), (0x0200, 0x78#8), (0x0201, 0x56#8)])).any (fun t =>
    t.a == 0x5678#16 && !t.flag .zf) = true := by decide +kernel

/-- spec/95_test_vectors.md B1 5 -/
theorem test_lb_dp_indirect_odd : (after [0xF2#8] (small 0x1200#16 0x1000#16 [(0x0084, 0x01#8), (0x0085, 0x02#8), (0x0201, 0x56#8)])).any (fun t =>
    t.a == 0x1256#16 && !t.dd) = true := by decide +kernel

/-- spec/95_test_vectors.md B1 6 -/
theorem test_lb_imm_zero : (after [0x77#8, 0x00#8] (small 0x1234#16 0x1000#16 [])).any (fun t =>
    t.a == 0x1200#16 && t.flag .zf && !t.dd) = true := by decide +kernel

/-- spec/95_test_vectors.md B1 7 -/
theorem test_st_dp_indirect : (after [0xD2#8] (small 0xABCD#16 0x1000#16 [(0x0084, 0x01#8), (0x0085, 0x02#8)])).any (fun t =>
    t.ram.read 0x0200 == 0xCD#8 && t.ram.read 0x0201 == 0xAB#8) = true := by decide +kernel

/-- spec/95_test_vectors.md B1 8 -/
theorem test_stb_dp_indirect : (after [0xD2#8] (small 0xABCD#16 0x0000#16 [(0x0084, 0x01#8), (0x0085, 0x02#8)])).any (fun t =>
    t.ram.read 0x0200 == 0x00#8 && t.ram.read 0x0201 == 0xCD#8) = true := by decide +kernel

/-- spec/95_test_vectors.md B1 9 -/
theorem test_stb_r3 : (after [0x8B#8] (small 0x12AB#16 0x0000#16 [])).any (fun t =>
    t.ram.read 0x00C3 == 0xAB#8) = true := by decide +kernel

/-- spec/95_test_vectors.md B1 10 -/
theorem test_stb_r4 : (after [0x8C#8] (small 0x12AB#16 0x0000#16 [])).any (fun t =>
    t.ram.read 0x00C4 == 0xAB#8) = true := by decide +kernel

/-- spec/95_test_vectors.md B1 12 -/
theorem test_mov_er0_imm : (after [0x44#8, 0x98#8, 0x34#8, 0x12#8] (small 0x0000#16 0x0000#16 [])).any (fun t =>
    t.ram.read 0x00C0 == 0x34#8 && t.ram.read 0x00C1 == 0x12#8 && !t.dd && t.pc == 0x0204#16) = true := by decide +kernel

/-- spec/95_test_vectors.md B1 13 -/
theorem test_mov_lrb_imm : (after [0x57#8, 0xFF#8, 0xFF#8] (small 0x0000#16 0x0000#16 [])).any (fun t =>
    t.lrb == 0x1FFF#13 && lrBase t == 0xFFF8#16) = true := by decide +kernel

/-- spec/95_test_vectors.md B1 14 -/
theorem test_movb_pswl_imm : (after [0xA3#8, 0x98#8, 0x03#8] (small 0x0000#16 0x0000#16 [])).any (fun t =>
    t.scb == 3#3 && ptrAddr t .x1 == 0x0098#16 && ptrAddr t .usp == 0x009E#16) = true := by decide +kernel

/-- spec/95_test_vectors.md B1 15 -/
theorem test_mov_psw_er0 : (after [0x44#8, 0x7D#8] (small 0x0000#16 0xC000#16 [(0x00C0, 0x03#8), (0x00C1, 0x10#8)])).any (fun t =>
    t.psw == 0x1003#16) = true := by decide +kernel

/-- spec/95_test_vectors.md B1 16 -/
theorem test_mov_a_ssp : (after [0xA0#8, 0x99#8] (small 0x0000#16 0x4000#16 [])).any (fun t =>
    t.a == 0x027E#16 && t.dd && t.flag .zf) = true := by decide +kernel

/-- spec/95_test_vectors.md B1 17 -/
theorem test_mov_lrb_a : (after [0xA4#8, 0x8A#8] (small 0xE020#16 0x0000#16 [])).any (fun t =>
    t.lrb == 0x0020#13) = true := by decide +kernel

/-- spec/95_test_vectors.md B1 18 -/
theorem test_clr_a : (after [0xF9#8] (small 0x1234#16 0x0000#16 [])).any (fun t =>
    t.a == 0x0000#16 && t.dd && t.flag .zf) = true := by decide +kernel

/-- spec/95_test_vectors.md B1 19 -/
theorem test_clrb_a : (after [0xFA#8] (small 0x1234#16 0x1000#16 [])).any (fun t =>
    t.a == 0x1200#16 && !t.dd && t.flag .zf) = true := by decide +kernel

/-- spec/95_test_vectors.md B1 20 -/
theorem test_swap : (after [0x83#8] (small 0x12AB#16 0x1000#16 [])).any (fun t =>
    t.a == 0xAB12#16) = true := by decide +kernel

/-- spec/95_test_vectors.md B1 21 -/
theorem test_swapb : (after [0x83#8] (small 0x12AB#16 0x0000#16 [])).any (fun t =>
    t.a == 0x12BA#16) = true := by decide +kernel

/-- spec/95_test_vectors.md B1 22 -/
theorem test_xchg_er0 : (after [0x44#8, 0x10#8] (small 0x1111#16 0x1000#16 [(0x00C0, 0x22#8), (0x00C1, 0x22#8)])).any (fun t =>
    t.a == 0x2222#16 && t.ram.read 0x00C0 == 0x11#8 && t.ram.read 0x00C1 == 0x11#8) = true := by decide +kernel

/-- spec/95_test_vectors.md B1 23 -/
theorem test_xchgb_r1 : (after [0x21#8, 0x10#8] (small 0x550F#16 0x0000#16 [(0x00C1, 0xF0#8)])).any (fun t =>
    t.a == 0x55F0#16 && t.ram.read 0x00C1 == 0x0F#8) = true := by decide +kernel

/-- spec/95_test_vectors.md B1 24 -/
theorem test_xnbl_off : (after [0x84#8, 0xD0#8] (small 0x12A5#16 0x0000#16 [(0x00D0, 0xC9#8)])).any (fun t =>
    t.a == 0x12A9#16 && t.ram.read 0x00D0 == 0xC5#8) = true := by decide +kernel

/-- spec/95_test_vectors.md B1 25 -/
theorem test_mov_off_off : (after [0xB4#8, 0xD3#8, 0x7C#8, 0xD0#8] (small 0x0000#16 0x0000#16 [(0x00D2, 0x11#8), (0x00D3, 0x22#8)])).any (fun t =>
    t.ram.read 0x00D0 == 0x11#8 && t.ram.read 0x00D1 == 0x22#8) = true := by decide +kernel

/-- spec/95_test_vectors.md A1 -/
theorem test_mov_word_boundary : (after [0xB5#8, 0xC1#8, 0x99#8] (small 0x0000#16 0x0000#16 [(0x00C0, 0x34#8), (0x00C1, 0x12#8), (0x00C2, 0xFF#8)])).any (fun t =>
    t.a == 0x1234#16 && t.dd) = true := by decide +kernel

/-- spec/95_test_vectors.md A2 -/
theorem test_st_er0 : (after [0x88#8] (small 0x1234#16 0x1000#16 [(0x00C0, 0xEE#8), (0x00C1, 0xEE#8)])).any (fun t =>
    t.ram.read 0x00C0 == 0x34#8 && t.ram.read 0x00C1 == 0x12#8) = true := by decide +kernel

/-- spec/95_test_vectors.md D 5 -/
theorem test_l_index_overflow : (after [0xE0#8, 0xFF#8, 0xFF#8] (small 0x0000#16 0x0000#16 [(0x0080, 0xC1#8), (0x00C0, 0x34#8), (0x00C1, 0x12#8)])).any (fun t =>
    t.a == 0x1234#16) = true := by decide +kernel

/-- spec/95_test_vectors.md D 16 -/
theorem test_movb_pswh_imm : (after [0xA2#8, 0x98#8, 0xFF#8] (small 0x0000#16 0x0000#16 [])).any (fun t =>
    t.psw == 0xFF00#16) = true := by decide +kernel

/-- spec/95_test_vectors.md B2 1 -/
theorem test_pushs_a : (after [0x55#8] (small 0x1234#16 0x0000#16 [])).any (fun t =>
    t.ram.read 0x027E == 0x34#8 && t.ram.read 0x027F == 0x12#8 && t.ssp == 0x027C#16) = true := by decide +kernel

/-- spec/95_test_vectors.md B2 2 -/
theorem test_pushs_lrb : (after [0x54#8] { small 0x0000#16 0x0000#16 [] with ssp := 0x027C#16 }).any (fun t =>
    t.ram.read 0x027C == 0x18#8 && t.ram.read 0x027D == 0x00#8 && t.ssp == 0x027A#16) = true := by decide +kernel

/-- spec/95_test_vectors.md B2 3 -/
theorem test_pops_lrb : (after [0x64#8] { small 0x0000#16 0x0000#16 [(0x027C, 0x18#8), (0x027D, 0xE0#8)] with ssp := 0x027A#16 }).any (fun t =>
    t.ssp == 0x027C#16 && t.lrb == 0x0018#13) = true := by decide +kernel

/-- spec/95_test_vectors.md B2 4 -/
theorem test_pops_a : (after [0x65#8] { small 0x0000#16 0x0000#16 [(0x027E, 0x34#8), (0x027F, 0x12#8)] with ssp := 0x027C#16 }).any (fun t =>
    t.ssp == 0x027E#16 && t.a == 0x1234#16 && t.dd) = true := by decide +kernel

/-- spec/95_test_vectors.md B2 5 -/
theorem test_pushs_a_odd : (after [0x55#8] { small 0x1234#16 0x0000#16 [] with ssp := 0x027F#16 }).any (fun t =>
    t.ram.read 0x027E == 0x34#8 && t.ram.read 0x027F == 0x12#8 && t.ssp == 0x027D#16) = true := by decide +kernel

/-- spec/95_test_vectors.md B3 1 -/
theorem test_rol_a : (after [0x33#8] (small 0x8001#16 0x1000#16 [])).any (fun t =>
    t.a == 0x0002#16 && t.flag .cf) = true := by decide +kernel

/-- spec/95_test_vectors.md B3 2 -/
theorem test_rolb_a : (after [0x33#8] (small 0x1280#16 0x8000#16 [])).any (fun t =>
    t.a == 0x1201#16 && t.flag .cf) = true := by decide +kernel

/-- spec/95_test_vectors.md B3 3 -/
theorem test_ror_a : (after [0x43#8] (small 0x0001#16 0x1000#16 [])).any (fun t =>
    t.a == 0x0000#16 && t.flag .cf && !t.flag .zf) = true := by decide +kernel

/-- spec/95_test_vectors.md B3 4 -/
theorem test_rorb_a : (after [0x43#8] (small 0xAB02#16 0x8000#16 [])).any (fun t =>
    t.a == 0xAB81#16 && !t.flag .cf) = true := by decide +kernel

/-- spec/95_test_vectors.md B3 5 -/
theorem test_sll_a : (after [0x53#8] (small 0xC000#16 0x1000#16 [])).any (fun t =>
    t.a == 0x8000#16 && t.flag .cf) = true := by decide +kernel

/-- spec/95_test_vectors.md B3 6 -/
theorem test_sllb_a : (after [0x53#8] (small 0x55FF#16 0x0000#16 [])).any (fun t =>
    t.a == 0x55FE#16 && t.flag .cf) = true := by decide +kernel

/-- spec/95_test_vectors.md B3 7 -/
theorem test_srl_a : (after [0x63#8] (small 0x8001#16 0x1000#16 [])).any (fun t =>
    t.a == 0x4000#16 && t.flag .cf) = true := by decide +kernel

/-- spec/95_test_vectors.md B3 8 -/
theorem test_srlb_a : (after [0x63#8] (small 0xFF80#16 0x8000#16 [])).any (fun t =>
    t.a == 0xFF40#16 && !t.flag .cf) = true := by decide +kernel

/-- spec/95_test_vectors.md B3 9 -/
theorem test_sra_a : (after [0x73#8] (small 0x8003#16 0x1000#16 [])).any (fun t =>
    t.a == 0xC001#16 && t.flag .cf) = true := by decide +kernel

/-- spec/95_test_vectors.md B3 10 -/
theorem test_srab_a : (after [0x73#8] (small 0x0082#16 0x8000#16 [])).any (fun t =>
    t.a == 0x00C1#16 && !t.flag .cf) = true := by decide +kernel

/-- spec/95_test_vectors.md B3 11 -/
theorem test_rol_er0 : (after [0x44#8, 0xB7#8] (small 0x0000#16 0x8000#16 [(0x00C1, 0x40#8)])).any (fun t =>
    t.ram.read 0x00C0 == 0x01#8 && t.ram.read 0x00C1 == 0x80#8 && !t.flag .cf) = true := by decide +kernel

/-- spec/95_test_vectors.md B3 12 -/
theorem test_rorb_off : (after [0xC4#8, 0xD0#8, 0xC7#8] (small 0x0000#16 0x8000#16 [(0x00D0, 0x01#8)])).any (fun t =>
    t.ram.read 0x00D0 == 0x80#8 && t.flag .cf) = true := by decide +kernel

/-- spec/95_test_vectors.md B3 13 -/
theorem test_srl_x1 : (after [0x90#8, 0xE7#8] (small 0x0000#16 0x0000#16 [(0x0080, 0xFF#8), (0x0081, 0xFF#8)])).any (fun t =>
    t.ram.read 0x0080 == 0xFF#8 && t.ram.read 0x0081 == 0x7F#8 && t.flag .cf) = true := by decide +kernel

/-- spec/95_test_vectors.md B3 14 -/
theorem test_sra_er3 : (after [0x47#8, 0xF7#8] (small 0x0000#16 0x8000#16 [(0x00C6, 0xFE#8), (0x00C7, 0xFF#8)])).any (fun t =>
    t.ram.read 0x00C6 == 0xFF#8 && t.ram.read 0x00C7 == 0xFF#8 && !t.flag .cf) = true := by decide +kernel

/-- spec/95_test_vectors.md R233 -/
theorem test_rolb_r2 : (after [0x22#8, 0xB7#8] (small 0x0000#16 0x0000#16 [(0x00C2, 0x81#8)])).any (fun t =>
    t.ram.read 0x00C2 == 0x02#8 && t.flag .cf) = true := by decide +kernel

/-- spec/95_test_vectors.md R235 -/
theorem test_ror_dp : (after [0x92#8, 0xC7#8] (small 0x0000#16 0x0000#16 [(0x0084, 0x03#8)])).any (fun t =>
    t.ram.read 0x0084 == 0x01#8 && t.ram.read 0x0085 == 0x00#8 && t.flag .cf) = true := by decide +kernel

/-- spec/95_test_vectors.md R238 -/
theorem test_sll_er1 : (after [0x45#8, 0xD7#8] (small 0x0000#16 0x8000#16 [(0x00C2, 0x01#8), (0x00C3, 0x40#8)])).any (fun t =>
    t.ram.read 0x00C2 == 0x02#8 && t.ram.read 0x00C3 == 0x80#8 && !t.flag .cf) = true := by decide +kernel

/-- spec/95_test_vectors.md R239 -/
theorem test_sllb_r0 : (after [0x20#8, 0xD7#8] (small 0x0000#16 0x0000#16 [(0x00C0, 0x80#8)])).any (fun t =>
    t.ram.read 0x00C0 == 0x00#8 && t.flag .cf && !t.flag .zf) = true := by decide +kernel

/-- spec/95_test_vectors.md R242 -/
theorem test_srlb_zp : (after [0xC5#8, 0xD0#8, 0xE7#8] (small 0x0000#16 0x0000#16 [(0x00D0, 0x03#8)])).any (fun t =>
    t.ram.read 0x00D0 == 0x01#8 && t.flag .cf) = true := by decide +kernel

/-- spec/95_test_vectors.md R245 -/
theorem test_srab_r7 : (after [0x27#8, 0xF7#8] (small 0x0000#16 0x0000#16 [(0x00C7, 0x81#8)])).any (fun t =>
    t.ram.read 0x00C7 == 0xC0#8 && t.flag .cf) = true := by decide +kernel

/-- spec/95_test_vectors.md B4 1 -/
theorem test_inc_dp : (after [0x72#8] (small 0x0000#16 0x0000#16 [(0x0084, 0xFF#8)])).any (fun t =>
    t.ram.read 0x0084 == 0x00#8 && t.ram.read 0x0085 == 0x01#8 && !t.flag .zf && t.flag .hc) = true := by decide +kernel

/-- spec/95_test_vectors.md B4 2 -/
theorem test_inc_dp_wrap : (after [0x72#8] (small 0x0000#16 0x0000#16 [(0x0084, 0xFF#8), (0x0085, 0xFF#8)])).any (fun t =>
    t.ram.read 0x0084 == 0x00#8 && t.ram.read 0x0085 == 0x00#8 && t.flag .zf && t.flag .hc && !t.flag .cf) = true := by decide +kernel

/-- spec/95_test_vectors.md B4 3 -/
theorem test_dec_dp : (after [0x82#8] (small 0x0000#16 0x0000#16 [])).any (fun t =>
    t.ram.read 0x0084 == 0xFF#8 && t.ram.read 0x0085 == 0xFF#8 && !t.flag .zf && t.flag .hc) = true := by decide +kernel

/-- spec/95_test_vectors.md B4 4 -/
theorem test_dec_er0 : (after [0x44#8, 0x17#8] (small 0x0000#16 0x2000#16 [(0x00C0, 0x01#8)])).any (fun t =>
    t.ram.read 0x00C0 == 0x00#8 && t.flag .zf && !t.flag .hc) = true := by decide +kernel

/-- spec/95_test_vectors.md B4 5 -/
theorem test_incb_r3 : (after [0xAB#8] (small 0x0000#16 0x0000#16 [(0x00C3, 0xFF#8)])).any (fun t =>
    t.ram.read 0x00C3 == 0x00#8 && t.flag .zf && t.flag .hc) = true := by decide +kernel

/-- spec/95_test_vectors.md B4 6 -/
theorem test_decb_r0 : (after [0xB8#8] (small 0x0000#16 0x2000#16 [(0x00C0, 0x01#8)])).any (fun t =>
    t.ram.read 0x00C0 == 0x00#8 && t.flag .zf && !t.flag .hc) = true := by decide +kernel

/-- spec/95_test_vectors.md B4 7 -/
theorem test_inc_lrb : (after [0xFD#8] { small 0x0000#16 0x0000#16 [] with lrb := 0x1FFF#13 }).any (fun t =>
    t.lrb == 0x0000#13 && !t.flag .zf) = true := by decide +kernel

/-- spec/95_test_vectors.md B4 8 -/
theorem test_dec_lrb : (after [0xFE#8] { small 0x0000#16 0x0000#16 [] with lrb := 0x0020#13 }).any (fun t =>
    t.lrb == 0x001F#13 && lrBase t == 0x00F8#16) = true := by decide +kernel

/-- spec/95_test_vectors.md B4 10 -/
theorem test_inc_dp_indirect : (after [0xB2#8, 0x16#8] (small 0x0000#16 0x0000#16 [(0x0084, 0x01#8), (0x0085, 0x02#8), (0x0200, 0xFF#8)])).any (fun t =>
    t.ram.read 0x0200 == 0x00#8 && t.ram.read 0x0201 == 0x01#8 && !t.flag .zf && t.flag .hc) = true := by decide +kernel

/-- spec/95_test_vectors.md B5 1 -/
theorem test_lc_direct : (after [0x90#8, 0x9C#8, 0x00#8, 0x3C#8] { small 0x0000#16 0x0000#16 [] with rom := [(0x3C00, 0xDC#8), (0x3C01, 0x56#8), (0x3C02, 0x13#8), (0x3C03, 0x00#8), (0x3C04, 0xA4#8), (0x3C05, 0x9F#8), (0x3C06, 0x37#8), (0x3C07, 0x0A#8), (0x3C08, 0x03#8), (0x3C09, 0x05#8), (0x3C0A, 0x5F#8), (0x3C0B, 0x87#8), (0x3C0C, 0xC4#8), (0x3C0D, 0xA1#8)] }).any (fun t =>
    t.a == 0x56DC#16 && !t.flag .zf && !t.dd) = true := by decide +kernel

/-- spec/95_test_vectors.md B5 2 -/
theorem test_lc_ind : (after [0x92#8, 0xA8#8] { small 0x0000#16 0x0000#16 [(0x0084, 0x02#8), (0x0085, 0x3C#8)] with rom := [(0x3C00, 0xDC#8), (0x3C01, 0x56#8), (0x3C02, 0x13#8), (0x3C03, 0x00#8), (0x3C04, 0xA4#8), (0x3C05, 0x9F#8), (0x3C06, 0x37#8), (0x3C07, 0x0A#8), (0x3C08, 0x03#8), (0x3C09, 0x05#8), (0x3C0A, 0x5F#8), (0x3C0B, 0x87#8), (0x3C0C, 0xC4#8), (0x3C0D, 0xA1#8)] }).any (fun t =>
    t.a == 0x0013#16) = true := by decide +kernel

/-- spec/95_test_vectors.md B5 3 -/
theorem test_lc_ind_ram : (after [0xB2#8, 0xA8#8] { small 0x0000#16 0x0000#16 [(0x0084, 0xD1#8), (0x00D0, 0x04#8), (0x00D1, 0x3C#8)] with rom := [(0x3C00, 0xDC#8), (0x3C01, 0x56#8), (0x3C02, 0x13#8), (0x3C03, 0x00#8), (0x3C04, 0xA4#8), (0x3C05, 0x9F#8), (0x3C06, 0x37#8), (0x3C07, 0x0A#8), (0x3C08, 0x03#8), (0x3C09, 0x05#8), (0x3C0A, 0x5F#8), (0x3C0B, 0x87#8), (0x3C0C, 0xC4#8), (0x3C0D, 0xA1#8)] }).any (fun t =>
    t.a == 0x9FA4#16) = true := by decide +kernel

/-- spec/95_test_vectors.md B5 4 -/
theorem test_lc_based : (after [0x92#8, 0xA9#8, 0x00#8, 0x3C#8] { small 0x0000#16 0x0000#16 [(0x0084, 0x06#8)] with rom := [(0x3C00, 0xDC#8), (0x3C01, 0x56#8), (0x3C02, 0x13#8), (0x3C03, 0x00#8), (0x3C04, 0xA4#8), (0x3C05, 0x9F#8), (0x3C06, 0x37#8), (0x3C07, 0x0A#8), (0x3C08, 0x03#8), (0x3C09, 0x05#8), (0x3C0A, 0x5F#8), (0x3C0B, 0x87#8), (0x3C0C, 0xC4#8), (0x3C0D, 0xA1#8)] }).any (fun t =>
    t.a == 0x0A37#16 && t.pc == 0x0204#16) = true := by decide +kernel

/-- spec/95_test_vectors.md B5 5 -/
theorem test_lcb_ind : (after [0x90#8, 0xAA#8] { small 0x1200#16 0x0000#16 [(0x0080, 0x0D#8), (0x0081, 0x3C#8)] with rom := [(0x3C00, 0xDC#8), (0x3C01, 0x56#8), (0x3C02, 0x13#8), (0x3C03, 0x00#8), (0x3C04, 0xA4#8), (0x3C05, 0x9F#8), (0x3C06, 0x37#8), (0x3C07, 0x0A#8), (0x3C08, 0x03#8), (0x3C09, 0x05#8), (0x3C0A, 0x5F#8), (0x3C0B, 0x87#8), (0x3C0C, 0xC4#8), (0x3C0D, 0xA1#8)] }).any (fun t =>
    t.a == 0x12A1#16 && !t.flag .zf) = true := by decide +kernel

/-- spec/95_test_vectors.md B5 6 -/
theorem test_cmpc_direct : (after [0x90#8, 0x9E#8, 0x02#8, 0x3C#8] { small 0x0013#16 0x8000#16 [] with rom := [(0x3C00, 0xDC#8), (0x3C01, 0x56#8), (0x3C02, 0x13#8), (0x3C03, 0x00#8), (0x3C04, 0xA4#8), (0x3C05, 0x9F#8), (0x3C06, 0x37#8), (0x3C07, 0x0A#8), (0x3C08, 0x03#8), (0x3C09, 0x05#8), (0x3C0A, 0x5F#8), (0x3C0B, 0x87#8), (0x3C0C, 0xC4#8), (0x3C0D, 0xA1#8)] }).any (fun t =>
    t.a == 0x0013#16 && t.flag .zf && !t.flag .cf) = true := by decide +kernel

/-- spec/95_test_vectors.md B5 7 -/
theorem test_cmpc_direct_less : (after [0x90#8, 0x9E#8, 0x04#8, 0x3C#8] { small 0x0013#16 0x0000#16 [] with rom := [(0x3C00, 0xDC#8), (0x3C01, 0x56#8), (0x3C02, 0x13#8), (0x3C03, 0x00#8), (0x3C04, 0xA4#8), (0x3C05, 0x9F#8), (0x3C06, 0x37#8), (0x3C07, 0x0A#8), (0x3C08, 0x03#8), (0x3C09, 0x05#8), (0x3C0A, 0x5F#8), (0x3C0B, 0x87#8), (0x3C0C, 0xC4#8), (0x3C0D, 0xA1#8)] }).any (fun t =>
    !t.flag .zf && t.flag .cf) = true := by decide +kernel

/-- spec/95_test_vectors.md B5 8 -/
theorem test_cmpcb_direct : (after [0x90#8, 0x9F#8, 0x08#8, 0x3C#8] { small 0x0003#16 0x8000#16 [] with rom := [(0x3C00, 0xDC#8), (0x3C01, 0x56#8), (0x3C02, 0x13#8), (0x3C03, 0x00#8), (0x3C04, 0xA4#8), (0x3C05, 0x9F#8), (0x3C06, 0x37#8), (0x3C07, 0x0A#8), (0x3C08, 0x03#8), (0x3C09, 0x05#8), (0x3C0A, 0x5F#8), (0x3C0B, 0x87#8), (0x3C0C, 0xC4#8), (0x3C0D, 0xA1#8)] }).any (fun t =>
    t.flag .zf && !t.flag .cf) = true := by decide +kernel

/-- spec/95_test_vectors.md A10 -/
theorem test_lcb_direct : (after [0x90#8, 0x9D#8, 0x0C#8, 0x3C#8] { small 0x0000#16 0x0000#16 [] with rom := [(0x3C00, 0xDC#8), (0x3C01, 0x56#8), (0x3C02, 0x13#8), (0x3C03, 0x00#8), (0x3C04, 0xA4#8), (0x3C05, 0x9F#8), (0x3C06, 0x37#8), (0x3C07, 0x0A#8), (0x3C08, 0x03#8), (0x3C09, 0x05#8), (0x3C0A, 0x5F#8), (0x3C0B, 0x87#8), (0x3C0C, 0xC4#8), (0x3C0D, 0xA1#8)] }).any (fun t =>
    t.a == 0x00C4#16) = true := by decide +kernel

/-- spec/95_test_vectors.md B6 1 -/
theorem test_add_imm : (after [0x86#8, 0x01#8, 0x00#8] (small 0xFFFF#16 0x1000#16 [])).any (fun t =>
    t.a == 0x0000#16 && t.pc == 0x0203#16) = true := by decide +kernel

/-- spec/95_test_vectors.md B6 2 -/
theorem test_addb_imm : (after [0x86#8, 0x01#8] (small 0x12FF#16 0x0000#16 [])).any (fun t =>
    t.a == 0x1200#16 && t.flag .zf && t.flag .cf && t.flag .hc && t.pc == 0x0202#16) = true := by decide +kernel

/-- spec/95_test_vectors.md B6 3 -/
theorem test_addb_r0 : (after [0x08#8] (small 0x0087#16 0x2000#16 [(0x00C0, 0x95#8)])).any (fun t =>
    t.a == 0x001C#16 && t.flag .cf && !t.flag .hc && !t.flag .zf) = true := by decide +kernel

/-- spec/95_test_vectors.md B6 4 -/
theorem test_adc_imm : (after [0x96#8, 0x00#8, 0x00#8] (small 0xFFFF#16 0x9000#16 [])).any (fun t =>
    t.a == 0x0000#16) = true := by decide +kernel

/-- spec/95_test_vectors.md B6 5 -/
theorem test_adcb_imm : (after [0x96#8, 0x00#8] (small 0x0099#16 0xA000#16 [])).any (fun t =>
    t.a == 0x009A#16 && !t.flag .cf && !t.flag .hc && !t.flag .zf) = true := by decide +kernel

/-- spec/95_test_vectors.md B6 6 -/
theorem test_adcb_imm_half : (after [0x96#8, 0x00#8] (small 0x000F#16 0x8000#16 [])).any (fun t =>
    t.a == 0x0010#16 && !t.flag .cf && t.flag .hc) = true := by decide +kernel

/-- spec/95_test_vectors.md B6 7 -/
theorem test_sub_imm : (after [0xA6#8, 0x01#8, 0x00#8] (small 0x0000#16 0x1000#16 [])).any (fun t =>
    t.a == 0xFFFF#16) = true := by decide +kernel

/-- spec/95_test_vectors.md B6 8 -/
theorem test_subb_r0 : (after [0x28#8] (small 0x0087#16 0x2000#16 [(0x00C0, 0x95#8)])).any (fun t =>
    t.a == 0x00F2#16 && t.flag .cf && !t.flag .hc) = true := by decide +kernel

/-- spec/95_test_vectors.md B6 9 -/
theorem test_sbcb_r0 : (after [0x38#8] (small 0x0099#16 0x8000#16 [(0x00C0, 0x99#8)])).any (fun t =>
    t.a == 0x00FF#16 && t.flag .cf && t.flag .hc && !t.flag .zf) = true := by decide +kernel

/-- spec/95_test_vectors.md B6 10 -/
theorem test_sbc_imm : (after [0xB6#8, 0x00#8, 0x00#8] (small 0x0000#16 0x9000#16 [])).any (fun t =>
    t.a == 0xFFFF#16) = true := by decide +kernel

/-- spec/95_test_vectors.md B6 11 -/
theorem test_sbc_imm_all : (after [0xB6#8, 0xFF#8, 0xFF#8] (small 0x0000#16 0x9000#16 [])).any (fun t =>
    t.a == 0x0000#16) = true := by decide +kernel

/-- spec/95_test_vectors.md B6 12 -/
theorem test_add_x1_imm : (after [0x90#8, 0x80#8, 0x02#8, 0x00#8] (small 0x0000#16 0x0000#16 [(0x0080, 0xFE#8), (0x0081, 0xFF#8)])).any (fun t =>
    t.ram.read 0x0080 == 0x00#8 && t.ram.read 0x0081 == 0x00#8) = true := by decide +kernel

/-- spec/95_test_vectors.md B6 13 -/
theorem test_subb_r2_imm : (after [0x22#8, 0xA0#8, 0x01#8] (small 0x0000#16 0x0000#16 [])).any (fun t =>
    t.ram.read 0x00C2 == 0xFF#8 && t.flag .cf && t.flag .hc && !t.flag .zf) = true := by decide +kernel

/-- spec/95_test_vectors.md B6 14 -/
theorem test_add_lrb_imm : (after [0xA4#8, 0x80#8, 0x00#8, 0xE0#8] (small 0x0000#16 0xC000#16 [])).any (fun t =>
    t.lrb == 0x0018#13) = true := by decide +kernel

/-- spec/95_test_vectors.md B6 17 -/
theorem test_mul : (after [0x90#8, 0x35#8] (small 0xFFFF#16 0x4000#16 [(0x00C0, 0xFF#8), (0x00C1, 0xFF#8)])).any (fun t =>
    t.a == 0x0001#16 && t.ram.read 0x00C2 == 0xFE#8 && t.ram.read 0x00C3 == 0xFF#8 && !t.flag .zf && t.ram.read 0x00C0 == 0xFF#8) = true := by decide +kernel

/-- spec/95_test_vectors.md B6 18 -/
theorem test_mul_zero : (after [0x90#8, 0x35#8] (small 0x0000#16 0x0000#16 [(0x00C0, 0x34#8), (0x00C1, 0x12#8)])).any (fun t =>
    t.a == 0x0000#16 && t.ram.read 0x00C2 == 0x00#8 && t.flag .zf) = true := by decide +kernel

/-- spec/95_test_vectors.md B6 20 -/
theorem test_mulb : (after [0xA2#8, 0x34#8] (small 0x00FF#16 0x4000#16 [(0x00C0, 0xFF#8)])).any (fun t =>
    t.a == 0xFE01#16 && !t.flag .zf && !t.dd) = true := by decide +kernel

/-- spec/95_test_vectors.md B6 21 -/
theorem test_div : (after [0x90#8, 0x37#8] (small 0x0000#16 0xC000#16 [(0x00C0, 0x01#8), (0x00C4, 0x10#8)])).any (fun t =>
    t.ram.read 0x00C0 == 0x00#8 && t.ram.read 0x00C1 == 0x00#8 && t.a == 0x1000#16 && t.ram.read 0x00C2 == 0x00#8 && !t.flag .cf && !t.flag .zf) = true := by decide +kernel

/-- spec/95_test_vectors.md B6 24 -/
theorem test_divb : (after [0xA2#8, 0x36#8] (small 0x0103#16 0x8000#16 [(0x00C0, 0x10#8)])).any (fun t =>
    t.a == 0x0010#16 && t.ram.read 0x00C1 == 0x03#8 && !t.flag .cf && !t.flag .zf) = true := by decide +kernel

/-- spec/95_test_vectors.md B6 25 -/
theorem test_divb_small : (after [0xA2#8, 0x36#8] (small 0x0005#16 0x0000#16 [(0x00C0, 0x10#8)])).any (fun t =>
    t.a == 0x0000#16 && t.ram.read 0x00C1 == 0x05#8 && !t.flag .cf && t.flag .zf) = true := by decide +kernel

/-- spec/95_test_vectors.md B6 23 -/
theorem test_div_by_zero : (after [0x90#8, 0x37#8] (small 0x0000#16 0x0000#16 [])).any (fun t =>
    t.pc == 0x0202#16) = true := by decide +kernel

/-- spec/95_test_vectors.md B7 1 -/
theorem test_and_imm : (after [0xD6#8, 0xFF#8, 0x00#8] (small 0x1234#16 0x9000#16 [])).any (fun t =>
    t.a == 0x0034#16 && !t.flag .zf && t.flag .cf) = true := by decide +kernel

/-- spec/95_test_vectors.md B7 2 -/
theorem test_andb_imm : (after [0xD6#8, 0x0F#8] (small 0x12F0#16 0x0000#16 [])).any (fun t =>
    t.a == 0x1200#16 && t.flag .zf) = true := by decide +kernel

/-- spec/95_test_vectors.md B7 3 -/
theorem test_or_er1 : (after [0x69#8] (small 0x00F0#16 0x1000#16 [(0x00C3, 0x0F#8)])).any (fun t =>
    t.a == 0x0FF0#16 && !t.flag .zf) = true := by decide +kernel

/-- spec/95_test_vectors.md B7 4 -/
theorem test_orb_r7 : (after [0x6F#8] (small 0x0001#16 0x0000#16 [(0x00C7, 0x80#8)])).any (fun t =>
    t.a == 0x0081#16) = true := by decide +kernel

/-- spec/95_test_vectors.md B7 5 -/
theorem test_xor_imm : (after [0xF6#8, 0xFF#8, 0xFF#8] (small 0x1234#16 0x1000#16 [])).any (fun t =>
    t.a == 0xEDCB#16 && !t.flag .zf) = true := by decide +kernel

/-- spec/95_test_vectors.md B7 6 -/
theorem test_xor_er0 : (after [0x44#8, 0xF2#8] (small 0x5555#16 0x1000#16 [(0x00C0, 0x55#8), (0x00C1, 0x55#8)])).any (fun t =>
    t.a == 0x0000#16 && t.flag .zf) = true := by decide +kernel

/-- spec/95_test_vectors.md B7 7 -/
theorem test_andb_pswh_imm : (after [0xA2#8, 0xD0#8, 0xEF#8] (small 0x0000#16 0x5000#16 [])).any (fun t =>
    !t.dd && t.flag .zf) = true := by decide +kernel

/-- spec/95_test_vectors.md B7 8 -/
theorem test_orb_pswh_imm : (after [0xA2#8, 0xE0#8, 0x10#8] (small 0x0000#16 0x4000#16 [])).any (fun t =>
    t.dd && t.flag .zf) = true := by decide +kernel

/-- spec/95_test_vectors.md B7 9 -/
theorem test_xorb_pswh_imm : (after [0xA2#8, 0xF0#8, 0x10#8] (small 0x0000#16 0x5000#16 [])).any (fun t =>
    !t.dd && t.flag .zf) = true := by decide +kernel

/-- spec/95_test_vectors.md B7 10 -/
theorem test_and_lrb_imm : (after [0xA4#8, 0xD0#8, 0x00#8, 0xFF#8] { small 0x0000#16 0x0000#16 [] with lrb := 0x0123#13 }).any (fun t =>
    t.lrb == 0x0100#13 && !t.flag .zf) = true := by decide +kernel

/-- spec/95_test_vectors.md B7 11 -/
theorem test_or_dp_indirect_a : (after [0xB2#8, 0xE1#8] (small 0x8000#16 0x0000#16 [(0x0085, 0x02#8), (0x0200, 0x01#8)])).any (fun t =>
    t.ram.read 0x0200 == 0x01#8 && t.ram.read 0x0201 == 0x80#8 && !t.flag .zf) = true := by decide +kernel

/-- spec/95_test_vectors.md B7 12 -/
theorem test_xorb_dp_indirect_a : (after [0xC2#8, 0xF1#8] (small 0x000F#16 0x0000#16 [(0x0084, 0x01#8), (0x0085, 0x02#8), (0x0201, 0xFF#8)])).any (fun t =>
    t.ram.read 0x0201 == 0xF0#8) = true := by decide +kernel

/-- spec/95_test_vectors.md B8 1 -/
theorem test_cmp_imm_eq : (after [0xC6#8, 0x34#8, 0x12#8] (small 0x1234#16 0x9000#16 [])).any (fun t =>
    t.flag .zf && !t.flag .cf && t.a == 0x1234#16) = true := by decide +kernel

/-- spec/95_test_vectors.md B8 2 -/
theorem test_cmp_imm_less : (after [0xC6#8, 0x34#8, 0x12#8] (small 0x1233#16 0x1000#16 [])).any (fun t =>
    !t.flag .zf && t.flag .cf) = true := by decide +kernel

/-- spec/95_test_vectors.md B8 4 -/
theorem test_cmpb_imm : (after [0xC6#8, 0x80#8] (small 0x127F#16 0x0000#16 [])).any (fun t =>
    !t.flag .zf && t.flag .cf) = true := by decide +kernel

/-- spec/95_test_vectors.md B8 5 -/
theorem test_cmpb_imm_greater : (after [0xC6#8, 0x80#8] (small 0x12FF#16 0x8000#16 [])).any (fun t =>
    !t.flag .zf && !t.flag .cf) = true := by decide +kernel

/-- spec/95_test_vectors.md B8 6 -/
theorem test_cmp_dp_a : (after [0x92#8, 0xC1#8] (small 0x0100#16 0xC000#16 [(0x0085, 0x02#8)])).any (fun t =>
    !t.flag .zf && !t.flag .cf) = true := by decide +kernel

/-- spec/95_test_vectors.md B8 7 -/
theorem test_cmpb_zp_imm : (after [0xC5#8, 0xD0#8, 0xC0#8, 0x05#8] (small 0x0000#16 0x0000#16 [(0x00D0, 0x04#8)])).any (fun t =>
    !t.flag .zf && t.flag .cf) = true := by decide +kernel

/-- spec/95_test_vectors.md B9 1 -/
theorem test_daa : (after [0x93#8] (small 0x001C#16 0x8000#16 [])).any (fun t =>
    t.a == 0x0082#16 && t.flag .cf && t.flag .hc) = true := by decide +kernel

/-- spec/95_test_vectors.md B9 2 -/
theorem test_daa_half : (after [0x93#8] (small 0x00A1#16 0x2000#16 [])).any (fun t =>
    t.a == 0x0007#16 && t.flag .cf && !t.flag .hc) = true := by decide +kernel

/-- spec/95_test_vectors.md B9 7 -/
theorem test_das : (after [0x94#8] (small 0x00F2#16 0x8000#16 [])).any (fun t =>
    t.a == 0x0092#16) = true := by decide +kernel

/-- spec/95_test_vectors.md B9 8 -/
theorem test_das_both : (after [0x94#8] (small 0x00FF#16 0xA000#16 [])).any (fun t =>
    t.a == 0x0099#16) = true := by decide +kernel

/-- spec/95_test_vectors.md B9 10 -/
theorem test_extnd : (after [0xF8#8] (small 0x127F#16 0x0000#16 [])).any (fun t =>
    t.a == 0x007F#16 && t.dd) = true := by decide +kernel

/-- spec/95_test_vectors.md B9 11 -/
theorem test_extnd_negative : (after [0xF8#8] (small 0x0080#16 0xD000#16 [])).any (fun t =>
    t.a == 0xFF80#16 && t.dd && t.flag .zf && t.flag .cf) = true := by decide +kernel

/-- spec/95_test_vectors.md B10 1 -/
theorem test_sb_bit : (after [0x20#8, 0x1A#8] (small 0x0000#16 0x0000#16 [])).any (fun t =>
    t.ram.read 0x00C0 == 0x04#8 && t.flag .zf) = true := by decide +kernel

/-- spec/95_test_vectors.md B10 2 -/
theorem test_sb_bit_set : (after [0x20#8, 0x1A#8] (small 0x0000#16 0x4000#16 [(0x00C0, 0x04#8)])).any (fun t =>
    t.ram.read 0x00C0 == 0x04#8 && !t.flag .zf) = true := by decide +kernel

/-- spec/95_test_vectors.md B10 3 -/
theorem test_rb_bit : (after [0xC5#8, 0xD0#8, 0x0F#8] (small 0x0000#16 0x4000#16 [(0x00D0, 0x81#8)])).any (fun t =>
    t.ram.read 0x00D0 == 0x01#8 && !t.flag .zf) = true := by decide +kernel

/-- spec/95_test_vectors.md B10 4 -/
theorem test_mb_c_bit : (after [0x21#8, 0x28#8] (small 0x0000#16 0x0000#16 [(0x00C1, 0x01#8)])).any (fun t =>
    t.flag .cf && t.ram.read 0x00C1 == 0x01#8) = true := by decide +kernel

/-- spec/95_test_vectors.md B10 5 -/
theorem test_mb_bit_c : (after [0xC4#8, 0xD0#8, 0x3B#8] (small 0x0000#16 0x8000#16 [])).any (fun t =>
    t.ram.read 0x00D0 == 0x08#8) = true := by decide +kernel

/-- spec/95_test_vectors.md B10 6 -/
theorem test_sbr : (after [0x20#8, 0x11#8] (small 0x0005#16 0x0000#16 [])).any (fun t =>
    t.ram.read 0x00C0 == 0x20#8 && t.flag .zf) = true := by decide +kernel

/-- spec/95_test_vectors.md B10 7 -/
theorem test_sbr_low_bits : (after [0x20#8, 0x11#8] (small 0xFFFD#16 0x0000#16 [])).any (fun t =>
    t.ram.read 0x00C0 == 0x20#8) = true := by decide +kernel

/-- spec/95_test_vectors.md B10 8 -/
theorem test_rbr : (after [0xC2#8, 0x12#8] (small 0xFF07#16 0x4000#16 [(0x0085, 0x02#8), (0x0200, 0xFF#8)])).any (fun t =>
    t.ram.read 0x0200 == 0x7F#8 && !t.flag .zf) = true := by decide +kernel

/-- spec/95_test_vectors.md B10 9 -/
theorem test_tbr : (after [0xC4#8, 0xD0#8, 0x13#8] (small 0x0000#16 0x0000#16 [(0x00D0, 0xFE#8)])).any (fun t =>
    t.flag .zf && t.ram.read 0x00D0 == 0xFE#8) = true := by decide +kernel

/-- spec/95_test_vectors.md B10 10 -/
theorem test_mbr_c : (after [0x22#8, 0x21#8] (small 0x0003#16 0x0000#16 [(0x00C2, 0x08#8)])).any (fun t =>
    t.flag .cf) = true := by decide +kernel

/-- spec/95_test_vectors.md B10 11 -/
theorem test_mbr_pswl_c : (after [0xA3#8, 0x20#8] (small 0x0002#16 0x8000#16 [])).any (fun t =>
    t.scb == 4#3 && ptrAddr t .x1 == 0x00A0#16) = true := by decide +kernel

/-- spec/95_test_vectors.md B11 3 -/
theorem test_sj_back : (after [0xCB#8, 0x80#8] { small 0x0000#16 0x0000#16 [] with pc := 0x0100#16 }).any (fun t =>
    t.pc == 0x0082#16) = true := by decide +kernel

/-- spec/95_test_vectors.md A6 -/
theorem test_sj_worked : (after [0xCB#8, 0xFF#8] { small 0x0000#16 0x0000#16 [] with pc := 0x00FE#16 }).any (fun t =>
    t.pc == 0x00FF#16) = true := by decide +kernel

/-- spec/95_test_vectors.md B11 6 -/
theorem test_j_addr : (after [0x03#8, 0x00#8, 0x40#8] (small 0x0000#16 0x0000#16 [])).any (fun t =>
    t.pc == 0x4000#16) = true := by decide +kernel

/-- spec/95_test_vectors.md B11 7 -/
theorem test_j_dp : (after [0x92#8, 0x22#8] (small 0x0000#16 0x0000#16 [(0x0084, 0x34#8), (0x0085, 0x12#8)])).any (fun t =>
    t.pc == 0x1234#16) = true := by decide +kernel

/-- spec/95_test_vectors.md B11 8 -/
theorem test_jc_eq : (after [0xC9#8, 0x10#8] (small 0x0000#16 0x4000#16 [])).any (fun t =>
    t.pc == 0x0212#16) = true := by decide +kernel

/-- spec/95_test_vectors.md B11 9 -/
theorem test_jc_eq_not : (after [0xC9#8, 0x10#8] (small 0x0000#16 0x0000#16 [])).any (fun t =>
    t.pc == 0x0202#16) = true := by decide +kernel

/-- spec/95_test_vectors.md B11 10 -/
theorem test_jc_gt_equal : (after [0xC8#8, 0x10#8] (small 0x0000#16 0x4000#16 [])).any (fun t =>
    t.pc == 0x0202#16) = true := by decide +kernel

/-- spec/95_test_vectors.md B11 11 -/
theorem test_jc_le : (after [0xCF#8, 0x10#8] (small 0x0000#16 0x4000#16 [])).any (fun t =>
    t.pc == 0x0212#16) = true := by decide +kernel

/-- spec/95_test_vectors.md R419 -/
theorem test_jc_lt : (after [0xCA#8, 0x10#8] (small 0x0000#16 0x8000#16 [])).any (fun t =>
    t.pc == 0x0212#16) = true := by decide +kernel

/-- spec/95_test_vectors.md R419 -/
theorem test_jc_ge : (after [0xCD#8, 0x10#8] (small 0x0000#16 0x8000#16 [])).any (fun t =>
    t.pc == 0x0202#16) = true := by decide +kernel

/-- spec/95_test_vectors.md R419 -/
theorem test_jc_ne : (after [0xCE#8, 0x10#8] (small 0x0000#16 0x4000#16 [])).any (fun t =>
    t.pc == 0x0202#16) = true := by decide +kernel

/-- spec/95_test_vectors.md B11 12 -/
theorem test_jbs : (after [0xE9#8, 0xD0#8, 0x05#8] { small 0x0000#16 0x0000#16 [(0x00D0, 0x02#8)] with pc := 0x0100#16 }).any (fun t =>
    t.pc == 0x0108#16) = true := by decide +kernel

/-- spec/95_test_vectors.md B11 13 -/
theorem test_jbr : (after [0xD8#8, 0xD0#8, 0xFD#8] { small 0x0000#16 0x0000#16 [] with pc := 0x0100#16 }).any (fun t =>
    t.pc == 0x0100#16) = true := by decide +kernel

/-- spec/95_test_vectors.md B11 14 -/
theorem test_jrnz : (after [0x30#8, 0xFE#8] { small 0x0000#16 0x0000#16 [(0x0084, 0x03#8), (0x0085, 0x12#8)] with pc := 0x0100#16 }).any (fun t =>
    t.pc == 0x0100#16 && t.ram.read 0x0084 == 0x02#8 && t.ram.read 0x0085 == 0x12#8) = true := by decide +kernel

/-- spec/95_test_vectors.md B11 15 -/
theorem test_jrnz_zero : (after [0x30#8, 0xFE#8] { small 0x0000#16 0x0000#16 [(0x0085, 0x12#8)] with pc := 0x0100#16 }).any (fun t =>
    t.pc == 0x0100#16 && t.ram.read 0x0084 == 0xFF#8 && t.ram.read 0x0085 == 0x12#8) = true := by decide +kernel

/-- spec/95_test_vectors.md B11 16 -/
theorem test_cal_addr : (after [0x32#8, 0x00#8, 0x02#8] { small 0x0000#16 0x0800#16 [] with pc := 0x0040#16 }).any (fun t =>
    t.ram.read 0x027E == 0x43#8 && t.ram.read 0x027F == 0x00#8 && t.ssp == 0x027C#16 && t.pc == 0x0200#16 && !t.flag .sf) = true := by decide +kernel

/-- spec/95_test_vectors.md B11 17 -/
theorem test_scal : (after [0x31#8, 0x10#8] { small 0x0000#16 0x0000#16 [] with pc := 0x0100#16 }).any (fun t =>
    t.ram.read 0x027E == 0x02#8 && t.ram.read 0x027F == 0x01#8 && t.ssp == 0x027C#16 && t.pc == 0x0112#16) = true := by decide +kernel

/-- spec/95_test_vectors.md B11 18 -/
theorem test_cal_er1 : (after [0x45#8, 0x23#8] { small 0x0000#16 0x0000#16 [(0x00C3, 0x03#8)] with pc := 0x0100#16 }).any (fun t =>
    t.ram.read 0x027E == 0x02#8 && t.ram.read 0x027F == 0x01#8 && t.ssp == 0x027C#16 && t.pc == 0x0300#16) = true := by decide +kernel

/-- spec/95_test_vectors.md B11 19 -/
theorem test_vcal : (after [0x12#8] { small 0x0000#16 0x0000#16 [] with rom := [(0x002C, 0x00#8), (0x002D, 0x10#8)] }).any (fun t =>
    t.ram.read 0x027E == 0x01#8 && t.ram.read 0x027F == 0x02#8 && t.ssp == 0x027C#16 && t.pc == 0x1000#16) = true := by decide +kernel

/-- spec/95_test_vectors.md B11 20 -/
theorem test_rt : (after [0x01#8] { small 0x0000#16 0x0800#16 [(0x027E, 0x43#8)] with ssp := 0x027C#16 }).any (fun t =>
    t.ssp == 0x027E#16 && t.pc == 0x0043#16 && !t.flag .sf) = true := by decide +kernel

/-- spec/95_test_vectors.md B11 21 -/
theorem test_rti : (after [0x02#8] { small 0x0000#16 0x0000#16 [(0x0278, 0x00#8), (0x0279, 0x10#8), (0x027A, 0x18#8), (0x027B, 0xE0#8), (0x027C, 0x34#8), (0x027D, 0x12#8), (0x027E, 0x50#8), (0x027F, 0x01#8)] with ssp := 0x0276#16 }).any (fun t =>
    t.psw == 0x1000#16 && t.lrb == 0x0018#13 && t.a == 0x1234#16 && t.pc == 0x0150#16 && t.ssp == 0x027E#16) = true := by decide +kernel

/-- spec/95_test_vectors.md B11 22 -/
theorem test_rt_for_rti : (after [0x01#8] { small 0x0000#16 0x0000#16 [(0x0278, 0x00#8), (0x0279, 0x10#8), (0x027A, 0x18#8), (0x027B, 0xE0#8), (0x027C, 0x34#8), (0x027D, 0x12#8), (0x027E, 0x50#8), (0x027F, 0x01#8)] with ssp := 0x0276#16 }).any (fun t =>
    t.pc == 0x1000#16 && t.ssp == 0x0278#16) = true := by decide +kernel

/-- spec/95_test_vectors.md B12 1 -/
theorem test_nop : (after [0x00#8] (small 0x0000#16 0x0000#16 [])).any (fun t =>
    t.pc == 0x0201#16 && t.psw == 0x0000#16) = true := by decide +kernel

/-- spec/95_test_vectors.md B12 2 -/
theorem test_sc : (after [0x85#8] (small 0x0000#16 0x6000#16 [])).any (fun t =>
    t.psw == 0xE000#16) = true := by decide +kernel

/-- spec/95_test_vectors.md B12 3 -/
theorem test_rc : (after [0x95#8] (small 0x0000#16 0xC000#16 [])).any (fun t =>
    t.psw == 0x4000#16) = true := by decide +kernel

/-- spec/95_test_vectors.md B12 4 -/
theorem test_brk : (after [0xFF#8] { small 0x0000#16 0x1000#16 [] with rom := [(0x0002, 0x50#8), (0x0003, 0x00#8)] }).any (fun t =>
    t.pc == 0x0050#16) = true := by decide +kernel

/-- spec/95_test_vectors.md B1 11 -/
theorem test_stop_st_er4 : stop [0x8C#8] (small 0x0000#16 0x1000#16 []) =
    some (.refusal .noWordRegister) := by decide +kernel

/-- spec/95_test_vectors.md B2 6 -/
theorem test_stop_pops_absent : stop [0x65#8] { small 0x0000#16 0x0000#16 [] with ssp := 0x027E#16 } =
    some (.fault (.absentData 0x0280#16)) := by decide +kernel

/-- spec/95_test_vectors.md B4 9 -/
theorem test_stop_incb_pswh : stop [0xA2#8, 0x16#8] (small 0x0000#16 0x0000#16 []) =
    some (.refusal .pswhFlagOrder) := by decide +kernel

/-- spec/95_test_vectors.md B5 9 -/
theorem test_stop_lc_past_end : stop [0x90#8, 0x9C#8, 0xFF#8, 0xFF#8] (small 0x0000#16 0x0000#16 []) =
    some (.refusal .romWordPastEnd) := by decide +kernel

/-- spec/95_test_vectors.md B5 10 -/
theorem test_stop_lc_absent : stop [0x90#8, 0x9C#8, 0x00#8, 0x80#8] (small 0x0000#16 0x0000#16 []) =
    some (.fault (.absentProgram 0x8000)) := by decide +kernel

/-- spec/95_test_vectors.md B6 15 -/
theorem test_stop_add_dd_mismatch : stop [0xB4#8, 0xC0#8, 0x82#8] (small 0x0000#16 0x0000#16 []) =
    some (.refusal .ddMismatch) := by decide +kernel

/-- spec/95_test_vectors.md B6 16 -/
theorem test_stop_addb_pswh : stop [0xA2#8, 0x80#8, 0x01#8] (small 0x0000#16 0x0000#16 []) =
    some (.refusal .pswhFlagOrder) := by decide +kernel

/-- spec/95_test_vectors.md B11 4 -/
theorem test_stop_sj_past_end : stop [0xCB#8, 0x7F#8] { small 0x0000#16 0x0000#16 [] with pc := 0xFFC0#16 } =
    some (.refusal .targetOutOfRange) := by decide +kernel

/-- spec/95_test_vectors.md B11 5 -/
theorem test_stop_sj_below : stop [0xCB#8, 0x80#8] { small 0x0000#16 0x0000#16 [] with pc := 0x0010#16 } =
    some (.refusal .targetOutOfRange) := by decide +kernel

/-- spec/95_test_vectors.md B12 7 -/
theorem test_stop_illegal_first_byte : stop [0x04#8] (small 0x0000#16 0x0000#16 []) =
    some (.refusal .illegalCode) := by decide +kernel

/-- spec/95_test_vectors.md D 2 -/
theorem test_stop_l_sfr : stop [0xE4#8, 0x10#8] (small 0x0000#16 0x0000#16 []) =
    some (.refusal (.peripheralRegister 0x0010#16)) := by decide +kernel

/-- spec/95_test_vectors.md D 4 -/
theorem test_stop_l_absent : stop [0xE0#8, 0x00#8, 0x03#8] (small 0x0000#16 0x0000#16 []) =
    some (.fault (.absentData 0x0300#16)) := by decide +kernel

/-- spec/95_test_vectors.md D 6 -/
theorem test_stop_lb_below : stop [0xF3#8, 0x80#8] (small 0x0000#16 0x0000#16 [(0x0086, 0x10#8)]) =
    some (.refusal .displacementOutOfRange) := by decide +kernel

/-- spec/95_test_vectors.md D 8 -/
theorem test_stop_illegal_suffix : stop [0x44#8, 0x00#8] (small 0x0000#16 0x0000#16 []) =
    some (.refusal .illegalCode) := by decide +kernel

/-- spec/95_test_vectors.md D 9 -/
theorem test_stop_cmp_dd_mismatch : stop [0x92#8, 0xC2#8] (small 0x0000#16 0x0000#16 []) =
    some (.refusal .ddMismatch) := by decide +kernel

/-- spec/95_test_vectors.md D 13 -/
theorem test_stop_fetch_past_end : stop [0x67#8] { small 0x0000#16 0x0000#16 [] with pc := 0xFFFF#16 } =
    some (.refusal .pcPastEnd) := by decide +kernel

/-- spec/95_test_vectors.md D 14 -/
theorem test_stop_brk_no_vector : stop [0xFF#8] (small 0x0000#16 0x0000#16 []) =
    some (.fault (.absentProgram 2)) := by decide +kernel

/-- spec/95_test_vectors.md D 15 -/
theorem test_stop_cal_absent : stop [0x32#8, 0x00#8, 0x02#8] { small 0x0000#16 0x0000#16 [] with ssp := 0x0300#16 } =
    some (.fault (.absentData 0x0300#16)) := by decide +kernel

/-- ZF and CF of the word sums of spec/95_test_vectors.md B6. -/
theorem test_word_flags :
    (alu .add 0xFFFF#16 0x0001#16 false).carry = some true ∧ (alu .adc 0xFFFF#16 0x0000#16 true).carry = some true ∧
      (alu .sub 0x0000#16 0x0001#16 false).carry = some true ∧ (alu .sbc 0x0000#16 0x0000#16 true).carry = some true ∧
      (alu .sbc 0x0000#16 0xFFFF#16 true).carry = some true ∧ (alu .cmp 0x8000#16 0x7FFF#16 false).carry = some false := by
  decide

/-! Witnesses: states and operands that meet the hypotheses of the statements, clause by clause. The operands sit at the ends of their ranges where a clause has a range. -/

theorem test_witness_legal : legalConfig Config.candidate := by unfold legalConfig; decide

theorem test_witness_legal_bare : legalConfig bare := by unfold legalConfig; decide

theorem test_illegal_config_dd : ¬ legalConfig { Config.candidate with cfBit := 12 } := by unfold legalConfig; decide

theorem test_illegal_config_address : ¬ legalConfig { Config.candidate with addrLrb := some 0x0000#16 } := by
  unfold legalConfig; decide

theorem test_witness_LaunchLoadsVector :
    (Memory.cell [(0, 0x34#8), (1, 0x12#8)] 0 = some 0x34#8 ∧ Memory.cell [(0, 0x34#8), (1, 0x12#8)] 1 = some 0x12#8) ∧
      Memory.cell [] 0 = none ∧ Memory.cell [(0, 0x34#8)] 1 = none ∧
      (State.launch { Config.candidate with intLive := [.watchdog, .interrupt .nmi] } [(0, 0x34#8), (1, 0x12#8)]
        ⟨[.event (.interrupt .nmi)], 0⟩).toOption.any
          (fun s => s.pc == 0x1234#16 && s.due == some (.interrupt .nmi)) = true ∧
      (State.launch { Config.candidate with intLive := [.watchdog] } [(0, 0x34#8), (1, 0x12#8)]
        ⟨[.event (.interrupt .nmi)], 0⟩).toOption.any (fun s => s.due == none) = true := by decide +kernel

/-- A state in which INT0 is live and due, its handler at 0300H, the stack at the top of the on-chip memory. -/
def liveInt0 : State :=
  { small 0x1234#16 0xD003#16 [] with
    cfg := { Config.candidate with intLive := [.interrupt .int0, .watchdog] }
    rom := [(4, 0x00#8), (5, 0x05#8), (8, 0x00#8), (9, 0x03#8)]
    env := ⟨[.event (.interrupt .int0)], 0⟩ }

/-- A state with the given schedule and `NOP` at PC. -/
def idle (turns : List Turn) : State :=
  { small 0x0000#16 0x0000#16 [] with
    rom := [(0x0200, 0x00#8)]
    env := ⟨turns, 0⟩ }

theorem test_witness_StepKeepsInvariant :
    Machine.Inv (idle []) ∧ step (idle []) = .next { idle [] with pc := 0x0201#16, env := ⟨[], 1⟩ } := by
  unfold Machine.Inv; exact ⟨by decide, rfl⟩

theorem test_witness_StepKeepsParameters :
    step (idle [.instruction]) = .next { idle [] with pc := 0x0201#16, env := ⟨[], 1⟩ } ∧
      (match step liveInt0 with
        | .next t => t.pc == 0x0300#16 && t.ssp == 0x0276#16 && t.env == ⟨[], 1⟩
        | _ => false) = true := ⟨rfl, by decide +kernel⟩

theorem test_witness_StepRunsDecoded :
    decode Opcodes.candidate false (fetchBytes (idle []).rom 0x0200 6) = .instr .nop 1 ∧
      (idle []).cfg.intLive = [] ∧ (idle [.instruction]).env.schedule = .instruction :: [] ∧
      (idle [.event .watchdog]).env.schedule = .event .watchdog :: [] ∧
      Event.watchdog ∉ (idle [.event .watchdog]).cfg.intLive ∧
      (idle []).env.schedule = [] ∧ (∀ e ∈ (idle []).cfg.intLive, Config.freeEvent (idle []).env.passed ≠ some e) :=
  ⟨by decide, rfl, rfl, rfl, by decide, rfl, fun _ h => nomatch h⟩

theorem test_witness_StepRunsEncoded :
    Opcodes.candidate.legal = true ∧
      (Instr.movObjImm (.x1Ind 0x0100#16) 0x1234#16).wellFormed Opcodes.candidate = true ∧
      encode Opcodes.candidate (.movObjImm (.x1Ind 0x0100#16) 0x1234#16) =
        some [0xB0#8, 0x00#8, 0x01#8, 0x98#8, 0x34#8, 0x12#8] ∧
      fetchBytes ({ small 0#16 0#16 [] with pc := 0xFFFA#16 }.placeAtPc
        [0xB0#8, 0x00#8, 0x01#8, 0x98#8, 0x34#8, 0x12#8]).rom 0xFFFA 6 =
          [0xB0#8, 0x00#8, 0x01#8, 0x98#8, 0x34#8, 0x12#8] ∧
      Instr.swap.wellFormed Opcodes.candidate = true ∧ Instr.swap.ddSelect = some true ∧
      (small 0#16 0x1000#16 []).dd = true ∧ encode Opcodes.candidate .swap = some [0x83#8] ∧
      fetchBytes ((small 0#16 0x1000#16 []).placeAtPc [0x83#8]).rom 0x0200 1 = [0x83#8] := by decide +kernel

theorem test_witness_DecodeEncode :
    Opcodes.candidate.legal = true ∧ (Instr.cmpObjImm (.x2Ind 0xFFFF#16) 0x8000#16).wellFormed Opcodes.candidate =
      true ∧
      Instr.ddSelect (.cmpObjImm (.x2Ind 0xFFFF#16) 0x8000#16) = none ∧
      encode Opcodes.candidate (.cmpObjImm (.x2Ind 0xFFFF#16) 0x8000#16) =
        some [0xB1#8, 0xFF#8, 0xFF#8, 0xC0#8, 0x00#8, 0x80#8] ∧
      (Instr.stbR 7).wellFormed Opcodes.candidate = true ∧ Instr.ddSelect (.stbR 7) = some false ∧
      encode Opcodes.candidate (.stbR 7) = some [0x8F#8] := by decide +kernel

theorem test_witness_DecodedIsEncoding :
    Opcodes.candidate.legal = true ∧ decode Opcodes.candidate true [0x8B#8, 0xFF#8] = .instr (.stEr 3) 1 ∧
      decode bare.opcodes false [0x31#8] = .instr (.illegal 0x31#8) 1 := by decide +kernel

theorem test_witness_WordBoundary :
    (∀ lo hi : Byte, lo = 0x34#8 → hi = 0x12#8 →
      readWord (small 0#16 0#16 [(0x027E, 0x34#8), (0x027F, 0x12#8)]) 0x027F#16 = .ok (mkWord hi lo)) ∧
      writeWord (small 0#16 0#16 []) 0x0081#16 0x1234#16 =
        .ok (small 0#16 0#16 [(0x0080, 0x34#8), (0x0081, 0x12#8)]) ∧
      writeWord (small 0#16 0#16 []) 0x0003#16 0xFFFF#16 = .ok { small 0#16 0#16 [] with lrb := 0x1FFF#13 } := by
  refine ⟨?_, rfl, rfl⟩
  rintro _ _ rfl rfl; rfl

theorem test_witness_RegistersAtAddresses :
    ∀ x ∈ ([(.ssp, 0x0000#16), (.lrb, 0x0002#16), (.psw, 0x0004#16), (.acc, 0x0006#16)] : List (CpuReg × Word)),
      x ∈ ([(.ssp, Config.candidate.addrSsp), (.lrb, Config.candidate.addrLrb), (.psw, Config.candidate.addrPsw),
        (.acc, Config.candidate.addrAcc)] : List (CpuReg × Option Word)).filterMap (fun x => x.2.map fun a => (x.1,
          a)) := by
  decide

theorem test_witness_MissingMemory :
    place Config.candidate 0x0008#16 = .sfr ∧ place Config.candidate 0x007F#16 = .sfr ∧
      place Config.candidate 0x0280#16 = .absent ∧ place Config.candidate 0xFFFF#16 = .absent ∧
      Memory.cell [] 0xFFFF = none := by decide

theorem test_witness_OperandAddresses :
    (∀ x ∈ [WObj.x1, .x2, .dp, .usp], ∃ o, (x, o) ∈ [(WObj.x1, 0x80), (.x2, 0x82), (.dp, 0x84), (.usp, 0x86)]) ∧
      readWord (small 0#16 0#16 [(0x0086, 0x80#8)]) (ptrAddr (small 0#16 0#16 []) .usp) = .ok 0x0080#16 ∧
      ((0x0000#16).toNat : Int) = (0x0080#16).toNat + (0x80#8).toInt ∧
      ((0xFFFF#16).toNat : Int) = (0xFF80#16).toNat + (0x7F#8).toInt ∧
      ((0x007F#16).toNat : Int) + (0x80#8).toInt < 0 ∧ 0xFFFF < ((0xFF81#16).toNat : Int) + (0x7F#8).toInt ∧
      readWord (small 0#16 0x0007#16 [(0x00BC, 0xFF#8), (0x00BD, 0xFF#8)]) (ptrAddr (small 0#16 0x0007#16 []) .dp) =
        .ok 0xFFFF#16 ∧
      readWord (small 0#16 0#16 [(0x0080, 0x01#8)]) (ptrAddr (small 0#16 0#16 []) .x1) = .ok 0x0001#16 ∧
      readWord (small 0#16 0#16 [(0x0082, 0x01#8)]) (ptrAddr (small 0#16 0#16 []) .x2) = .ok 0x0001#16 := by
  refine ⟨by simp, ?_⟩
  decide +kernel

theorem test_witness_Jumps :
    ((0xFFFF#16).toNat : Int) = (0xFF7E#16).toNat + 2 + (0x7F#8).toInt ∧
      ((0x0000#16).toNat : Int) = (0x007E#16).toNat + 2 + (0x80#8).toInt ∧
      ((0x007D#16).toNat : Int) + 2 + (0x80#8).toInt < 0 ∧ 0xFFFF < ((0xFF7F#16).toNat : Int) + 2 + (0x7F#8).toInt ∧
      loadW (small 0#16 0#16 [(0x0085, 0x12#8)]) .dp = .ok 0x1200#16 := by decide +kernel

theorem test_witness_InterruptEntry :
    liveInt0.due = some (.interrupt .int0) ∧ 8 ≤ liveInt0.ssp.toNat ∧
      (∀ k, k ∈ [0#16, 2#16, 4#16, 6#16] → regAt liveInt0.cfg (liveInt0.ssp - k) = none ∧
        (WLoc.mem (liveInt0.ssp - k)).accessible liveInt0.cfg = true) ∧
      liveInt0.rom.cell IntSource.int0.vector.toNat = some 0x00#8 ∧ liveInt0.rom.cell (IntSource.int0.vector.toNat + 1) = some
        0x03#8 := by
  refine ⟨by decide, by decide, ?_, rfl, rfl⟩
  simp only [List.forall_mem_cons, List.not_mem_nil, false_imp_iff, implies_true, and_true]
  decide +kernel

theorem test_witness_RtiUndoesInterrupt :
    8 ≤ liveInt0.ssp.toNat ∧ (∀ k, k ≤ 8 → regAt liveInt0.cfg (liveInt0.ssp - BitVec.ofNat 16 k) = none) ∧
      (takeInterrupt .int0 liveInt0).toOption.any (fun t => t.pc == 0x0300#16 && t.ssp == 0x0276#16) = true := by
  decide +kernel

theorem test_witness_ResetEvents :
    Memory.cell [(2, 0x50#8), (3, 0x00#8)] 2 = some 0x50#8 ∧ Memory.cell [(2, 0x50#8), (3, 0x00#8)] 3 = some 0x00#8 ∧
      { liveInt0 with env := ⟨[.event .watchdog], 0⟩ }.due = some .watchdog ∧
      liveInt0.rom.cell 4 = some 0x00#8 ∧ liveInt0.rom.cell 5 = some 0x05#8 := by decide

theorem test_witness_DecimalAdjust_SignExtend_CarryAndNop :
    { small 0#16 0#16 [] with pc := 0xFFFE#16 }.pc.toNat + 1 ≤ 0xFFFF ∧ legalConfig { small 0#16 0#16 [] with pc :=
      0xFFFE#16 }.cfg :=
  ⟨by decide, test_witness_legal⟩

theorem test_witness_LoadWord :
    ∃ (s : State) (n v : Word) (d : Byte) (e : BitVec 2) (i : Instr) (len : Nat) (o : WObj),
      legalConfig s.cfg ∧
      s.pc.toNat + len ≤ 0xFFFF ∧
      (i, o, len) ∈ [(Instr.lEr e, WObj.er e, 1), (.lX1, .x1, 1), (.lX2, .x2, 1), (.lDp, .dp, 1), (.lX1Ind n, .x1Ind
        n, 3), (.lX2Ind n, .x2Ind n, 3), (.lDpInd, .dpInd, 1), (.lUspInd d, .uspInd d, 2), (.lOff d, .off d, 2), (.lZp
        d, .zp d, 2)] ∧
      loadW s o = .ok v :=
  ⟨{ small 0x0000#16 0x0000#16 [(0x0080, 0x81#8)] with pc := 0xFFFC#16 }, 0xFFFF#16, 0x0081#16, 0x00#8, 0, .lX1Ind 0xFFFF#16, 3, .x1Ind 0xFFFF#16, test_witness_legal, by decide +kernel⟩

theorem test_witness_LoadWord_constant :
    ∃ (s : State) (n v : Word) (i : Instr) (len : Nat),
      legalConfig s.cfg ∧
      s.pc.toNat + len ≤ 0xFFFF ∧
      (i, v, len) ∈ [(Instr.lImm n, n, 3), (.clrA, 0#16, 1)] :=
  ⟨{ small 0x0000#16 0x0000#16 [] with pc := 0xFFFE#16 }, 0x1234#16, 0x0000#16, .clrA, 1, test_witness_legal, by decide +kernel⟩

theorem test_witness_LoadByte :
    ∃ (s : State) (n : Word) (d v : Byte) (r : BitVec 3) (i : Instr) (len : Nat) (o : BObj),
      legalConfig s.cfg ∧
      s.pc.toNat + len ≤ 0xFFFF ∧
      (i, o, len) ∈ [(Instr.lbR r, BObj.r r, 1), (.lbX1Ind n, .x1Ind n, 3), (.lbX2Ind n, .x2Ind n, 3), (.lbDpInd,
        .dpInd, 1), (.lbUspInd d, .uspInd d, 2), (.lbOff d, .off d, 2), (.lbZp d, .zp d, 2)] ∧
      loadB s o = .ok v :=
  ⟨{ small 0x0000#16 0x0000#16 [(0x00C7, 0x80#8)] with pc := 0xFFFE#16 }, 0x0000#16, 0x00#8, 0x80#8, 7, .lbR 7, 1, .r 7, test_witness_legal, by decide +kernel⟩

theorem test_witness_LoadByte_constant :
    ∃ (s : State) (d v : Byte) (i : Instr) (len : Nat),
      legalConfig s.cfg ∧
      s.pc.toNat + len ≤ 0xFFFF ∧
      (i, v, len) ∈ [(Instr.lbImm d, d, 2), (.clrbA, 0#8, 1)] :=
  ⟨{ small 0x0000#16 0x0000#16 [] with pc := 0xFFFD#16 }, 0xFF#8, 0xFF#8, .lbImm 0xFF#8, 2, test_witness_legal, by decide +kernel⟩

theorem test_witness_MoveToAccumulatorOrPsw :
    ∃ (s : State) (o : WObj) (v : Word) (p : BObj) (b : Byte),
      loadW s o = .ok v ∧
      s.pc.toNat + (o.prefixLen + 1) ≤ 0xFFFF ∧
      loadB s p = .ok b ∧
      s.pc.toNat + (p.prefixLen + 1) ≤ 0xFFFF :=
  ⟨{ small 0x0000#16 0xFF00#16 [] with pc := 0xFFFD#16 }, .ssp, 0x027E#16, .pswh, 0xFF#8, by decide +kernel⟩

theorem test_witness_StoreAccumulator_word :
    ∃ (s : State) (n : Word) (d : Byte) (e : BitVec 2) (i : Instr) (o : WObj) (len : Nat) (l : WLoc),
      (i, o, len) ∈ [(Instr.stEr e, WObj.er e, 1), (.stbR (e.setWidth 3), .er e, 1), (.stX1Ind n, .x1Ind n, 3),
        (.stbX1Ind n, .x1Ind n, 3), (.stX2Ind n, .x2Ind n, 3), (.stbX2Ind n, .x2Ind n, 3), (.stDpInd, .dpInd, 1),
        (.stbDpInd, .dpInd, 1), (.stUspInd d, .uspInd d, 2), (.stbUspInd d, .uspInd d, 2), (.stOff d, .off d, 2),
        (.stbOff d, .off d, 2), (.stZp d, .zp d, 2), (.stbZp d, .zp d, 2)] ∧
      s.dd = true ∧
      s.pc.toNat + len ≤ 0xFFFF ∧
      wordLoc s o = .ok l ∧
      l.accessible s.cfg = true :=
  ⟨{ small 0x0000#16 0x1000#16 [] with pc := 0xFFFE#16 }, 0#16, 0#8, 3, .stbR 3, .er 3, 1, .mem 0x00C6#16, by decide +kernel⟩

theorem test_witness_StoreAccumulator_byte :
    ∃ (s : State) (n : Word) (d : Byte) (r : BitVec 3) (e : BitVec 2) (i : Instr) (o : BObj) (len : Nat) (l : BLoc),
      (i, o, len) ∈ [(Instr.stbR r, BObj.r r, 1), (.stEr e, .r (e.setWidth 3), 1), (.stX1Ind n, .x1Ind n, 3),
        (.stbX1Ind n, .x1Ind n, 3), (.stX2Ind n, .x2Ind n, 3), (.stbX2Ind n, .x2Ind n, 3), (.stDpInd, .dpInd, 1),
        (.stbDpInd, .dpInd, 1), (.stUspInd d, .uspInd d, 2), (.stbUspInd d, .uspInd d, 2), (.stOff d, .off d, 2),
        (.stbOff d, .off d, 2), (.stZp d, .zp d, 2), (.stbZp d, .zp d, 2)] ∧
      s.dd = false ∧
      s.pc.toNat + len ≤ 0xFFFF ∧
      byteLoc s o = .ok l ∧
      l.accessible s.cfg = true :=
  ⟨{ small 0x0000#16 0x0000#16 [] with pc := 0xFFFE#16 }, 0#16, 0#8, 7, 0, .stbR 7, .r 7, 1, .mem 0x00C7#16, by decide +kernel⟩

theorem test_witness_StoreWordObject :
    ∃ (s : State) (n v : Word) (i : Instr) (o dst : WObj) (len : Nat) (l : WLoc),
      (i, dst, v, len) ∈ [(Instr.movX1A, WObj.x1, s.a, 1), (.movX2A, .x2, s.a, 1), (.movDpA, .dp, s.a, 1), (.movObjA
        o, o, s.a, o.prefixLen + 1), (.movX1Imm n, .x1, n, 3), (.movX2Imm n, .x2, n, 3), (.movDpImm n, .dp, n, 3),
        (.movLrbImm n, .lrb, n, 3), (.movObjImm o n, o, n, o.prefixLen + 3), (.clrObj o, o, 0#16, o.prefixLen + 1)] ∧
      s.pc.toNat + len ≤ 0xFFFF ∧
      wordLoc s dst = .ok l ∧
      l.accessible s.cfg = true :=
  ⟨{ small 0x0000#16 0x0007#16 [] with pc := 0xFFFE#16 }, 0#16, 0#16, .movDpA, .er 0, .dp, 1, .mem 0x00BC#16, by decide +kernel⟩

theorem test_witness_StoreWordObject_lrb :
    ∃ (s : State) (n v : Word) (i : Instr) (o dst : WObj) (len : Nat) (l : WLoc),
      (i, dst, v, len) ∈ [(Instr.movX1A, WObj.x1, s.a, 1), (.movX2A, .x2, s.a, 1), (.movDpA, .dp, s.a, 1), (.movObjA
        o, o, s.a, o.prefixLen + 1), (.movX1Imm n, .x1, n, 3), (.movX2Imm n, .x2, n, 3), (.movDpImm n, .dp, n, 3),
        (.movLrbImm n, .lrb, n, 3), (.movObjImm o n, o, n, o.prefixLen + 3), (.clrObj o, o, 0#16, o.prefixLen + 1)] ∧
      s.pc.toNat + len ≤ 0xFFFF ∧
      wordLoc s dst = .ok l ∧
      l.accessible s.cfg = true :=
  ⟨small 0x0000#16 0x0000#16 [], 0xFFFF#16, 0xFFFF#16, .movLrbImm 0xFFFF#16, .er 0, .lrb, 3, .lrb, by decide +kernel⟩

theorem test_witness_StoreByteObject :
    ∃ (s : State) (n v : Byte) (r : BitVec 3) (i : Instr) (o dst : BObj) (len : Nat) (l : BLoc),
      (i, dst, v, len) ∈ [(Instr.movbObjA o, o, s.al, o.prefixLen + 1), (.movbRImm r n, .r r, n, 2), (.movbObjImm o n,
        o, n, o.prefixLen + 2), (.clrbObj o, o, 0#8, o.prefixLen + 1)] ∧
      s.pc.toNat + len ≤ 0xFFFF ∧
      byteLoc s dst = .ok l ∧
      l.accessible s.cfg = true :=
  ⟨{ small 0x0000#16 0x0000#16 [] with pc := 0xFFFC#16 }, 0xFF#8, 0xFF#8, 0, .movbObjImm .pswh 0xFF#8, .pswh, .pswh, 3, .pswh, by decide +kernel⟩

theorem test_witness_MoveWord :
    ∃ (s : State) (v : Word) (d : Byte) (e : BitVec 2) (i : Instr) (o dst : WObj) (len : Nat) (l : WLoc),
      (i, dst, len) ∈ [(Instr.movX1Obj o, WObj.x1, o.prefixLen + 1), (.movX2Obj o, .x2, o.prefixLen + 1), (.movDpObj
        o, .dp, o.prefixLen + 1), (.movUspObj o, .usp, o.prefixLen + 1), (.movSspObj o, .ssp, o.prefixLen + 1),
        (.movLrbObj o, .lrb, o.prefixLen + 1), (.movErObj e o, .er e, o.prefixLen + 1), (.movOffObj d o, .off d,
        o.prefixLen + 2)] ∧
      s.pc.toNat + len ≤ 0xFFFF ∧
      loadW s o = .ok v ∧
      wordLoc s dst = .ok l ∧
      l.accessible s.cfg = true :=
  ⟨small 0x0000#16 0x0000#16 [(0x0080, 0x34#8)], 0x0034#16, 0xFF#8, 0, .movOffObj 0xFF#8 .x1, .x1, .off 0xFF#8, 3, .mem 0x00FF#16, by decide +kernel⟩

theorem test_witness_MoveByte_pswh :
    ∃ (s : State) (v d : Byte) (r : BitVec 3) (i : Instr) (o dst : BObj) (len : Nat) (l : BLoc),
      (i, dst, len) ∈ [(Instr.movbRObj r o, BObj.r r, o.prefixLen + 1), (.movbOffObj d o, .off d, o.prefixLen + 2),
        (.movbPswhObj o, .pswh, o.prefixLen + 1), (.movbPswlObj o, .pswl, o.prefixLen + 1)] ∧
      s.pc.toNat + len ≤ 0xFFFF ∧
      loadB s o = .ok v ∧
      byteLoc s dst = .ok l ∧
      l.accessible s.cfg = true :=
  ⟨small 0x0000#16 0x0000#16 [(0x00C3, 0x1F#8)], 0x1F#8, 0#8, 0, .movbPswhObj (.r 3), .r 3, .pswh, 2, .pswh, by decide +kernel⟩

theorem test_witness_MoveByte_pswl :
    ∃ (s : State) (v d : Byte) (r : BitVec 3) (i : Instr) (o dst : BObj) (len : Nat) (l : BLoc),
      (i, dst, len) ∈ [(Instr.movbRObj r o, BObj.r r, o.prefixLen + 1), (.movbOffObj d o, .off d, o.prefixLen + 2),
        (.movbPswhObj o, .pswh, o.prefixLen + 1), (.movbPswlObj o, .pswl, o.prefixLen + 1)] ∧
      s.pc.toNat + len ≤ 0xFFFF ∧
      loadB s o = .ok v ∧
      byteLoc s dst = .ok l ∧
      l.accessible s.cfg = true :=
  ⟨small 0x0000#16 0x0000#16 [(0x00C3, 0x1F#8)], 0x1F#8, 0#8, 0, .movbPswlObj (.r 3), .r 3, .pswl, 2, .pswl, by decide +kernel⟩

theorem test_witness_Swap :
    ∃ (s t : State) (i : Instr),
      i ∈ [Instr.swap, .swapb] ∧
      s.pc.toNat + 1 ≤ 0xFFFF ∧
      s.dd = true ∧
      t.pc.toNat + 1 ≤ 0xFFFF ∧
      t.dd = false :=
  ⟨{ small 0x0000#16 0x1000#16 [] with pc := 0xFFFE#16 }, small 0x0000#16 0x0000#16 [], .swapb, by decide +kernel⟩

theorem test_witness_Exchange_word :
    ∃ (s : State) (o : WObj) (l : WLoc) (v : Word),
      s.dd = true ∧
      s.pc.toNat + (o.prefixLen + 1) ≤ 0xFFFF ∧
      wordLoc s o = .ok l ∧
      readW s l = .ok v :=
  ⟨small 0x0000#16 0x1000#16 [], .lrb, .lrb, 0x0018#16, by decide +kernel⟩

theorem test_witness_Exchange_byte :
    ∃ (s : State) (o : BObj) (l : BLoc) (b : Byte),
      s.dd = false ∧
      s.pc.toNat + (o.prefixLen + 1) ≤ 0xFFFF ∧
      byteLoc s o = .ok l ∧
      readB s l = .ok b :=
  ⟨small 0x0000#16 0x0000#16 [(0x00C0, 0x77#8)], .r 0, .mem 0x00C0#16, 0x77#8, by decide +kernel⟩

theorem test_witness_Exchange_nibble :
    ∃ (s : State) (d v : Byte),
      s.pc.toNat + 2 ≤ 0xFFFF ∧
      readByte s (pageAddr s d) = .ok v :=
  ⟨small 0x0000#16 0x0000#16 [(0x00D0, 0xC9#8)], 0xD0#8, 0xC9#8, by decide +kernel⟩

theorem test_witness_PushAndPop_push :
    ∃ (s : State) (i : Instr) (v : Word),
      (i, v) ∈ [(Instr.pushsA, s.a), (.pushsLrb, s.lrbWord)] ∧
      s.pc.toNat + 1 ≤ 0xFFFF ∧
      2 ≤ s.ssp.toNat ∧
      (WLoc.mem s.ssp).accessible s.cfg = true ∧
      regAt s.cfg s.ssp = none :=
  ⟨{ small 0x1234#16 0x0000#16 [] with ssp := 0x027F#16 }, .pushsA, 0x1234#16, by decide +kernel⟩

theorem test_witness_PushAndPop_lowest :
    ∃ (s : State) (i : Instr) (v : Word),
      (i, v) ∈ [(Instr.pushsA, s.a), (.pushsLrb, s.lrbWord)] ∧
      s.pc.toNat + 1 ≤ 0xFFFF ∧
      2 ≤ s.ssp.toNat ∧
      (WLoc.mem s.ssp).accessible s.cfg = true :=
  ⟨{ small 0x1234#16 0x0000#16 [] with ssp := 0x0002#16 }, .pushsA, 0x1234#16, by decide +kernel⟩

theorem test_witness_PushAndPop_pop :
    ∃ (s : State) (v : Word),
      s.pc.toNat + 1 ≤ 0xFFFF ∧
      s.ssp.toNat + 2 ≤ 0xFFFF ∧
      readWord s (s.ssp + 2#16) = .ok v :=
  ⟨{ small 0x0000#16 0x0000#16 [(0x027F, 0xE0#8)] with ssp := 0x027C#16 }, 0xE000#16, by decide +kernel⟩

theorem test_witness_ShiftAccumulator :
    ∃ (s t : State) (i : Instr) (op : ShiftOp),
      s.pc.toNat + 1 ≤ 0xFFFF ∧
      t.pc.toNat + 1 ≤ 0xFFFF ∧
      (i, op) ∈ [(Instr.rolA, ShiftOp.rol), (.rolbA, .rol), (.rorA, .ror), (.rorbA, .ror), (.sllA, .sll), (.sllbA,
        .sll), (.srlA, .srl), (.srlbA, .srl), (.sraA, .sra), (.srabA, .sra)] ∧
      s.dd = true ∧
      t.dd = false :=
  ⟨{ small 0x0000#16 0x1000#16 [] with pc := 0xFFFE#16 }, small 0x0000#16 0x0000#16 [], .rolA, .rol, by decide +kernel⟩

theorem test_witness_ShiftObject_word :
    ∃ (s : State) (i : Instr) (op : ShiftOp) (o : WObj) (l : WLoc) (v : Word),
      legalConfig s.cfg ∧
      (i, op) ∈ [(Instr.rolObj o, ShiftOp.rol), (.rorObj o, .ror), (.sllObj o, .sll), (.srlObj o, .srl), (.sraObj o,
        .sra)] ∧
      s.pc.toNat + (o.prefixLen + 1) ≤ 0xFFFF ∧
      wordLoc s o = .ok l ∧
      readW s l = .ok v ∧
      l.holdsPswh s.cfg = false :=
  ⟨small 0x0000#16 0x0000#16 [], .sraObj .ssp, .sra, .ssp, .ssp, 0x027E#16, test_witness_legal, by decide +kernel⟩

theorem test_witness_ShiftObject_byte :
    ∃ (s : State) (i : Instr) (op : ShiftOp) (o : BObj) (m : BLoc) (b : Byte),
      legalConfig s.cfg ∧
      (i, op) ∈ [(Instr.rolbObj o, ShiftOp.rol), (.rorbObj o, .ror), (.sllbObj o, .sll), (.srlbObj o, .srl), (.srabObj
        o, .sra)] ∧
      s.pc.toNat + (o.prefixLen + 1) ≤ 0xFFFF ∧
      byteLoc s o = .ok m ∧
      readB s m = .ok b ∧
      m.holdsPswh s.cfg = false :=
  ⟨small 0x0000#16 0x0007#16 [], .rolbObj .pswl, .rol, .pswl, .pswl, 0x07#8, test_witness_legal, by decide +kernel⟩

theorem test_witness_StepWordObject_lrb :
    ∃ (s : State) (op : StepOp) (i : Instr) (o dst : WObj) (len : Nat) (l : WLoc) (v : Word),
      legalConfig s.cfg ∧
      (i, op, dst, len) ∈ [(Instr.incX1, StepOp.inc, WObj.x1, 1), (.incX2, .inc, .x2, 1), (.incDp, .inc, .dp, 1),
        (.incLrb, .inc, .lrb, 1), (.incObj o, .inc, o, o.prefixLen + 1), (.decX1, .dec, .x1, 1), (.decX2, .dec, .x2,
        1), (.decDp, .dec, .dp, 1), (.decLrb, .dec, .lrb, 1), (.decObj o, .dec, o, o.prefixLen + 1)] ∧
      s.pc.toNat + len ≤ 0xFFFF ∧
      wordLoc s dst = .ok l ∧
      readW s l = .ok v ∧
      l.holdsPswh s.cfg = false ∧
      s.cfg.incDecFlag = .hc ∧
      l.isLrb s.cfg = true :=
  ⟨{ small 0x0000#16 0x0000#16 [] with lrb := 0x1FFF#13 }, .inc, .incLrb, .er 0, .lrb, 1, .lrb, 0x1FFF#16, test_witness_legal, by decide +kernel⟩

theorem test_witness_StepWordObject_cf :
    ∃ (s : State) (op : StepOp) (i : Instr) (o dst : WObj) (len : Nat) (l : WLoc) (v : Word),
      legalConfig s.cfg ∧
      (i, op, dst, len) ∈ [(Instr.incX1, StepOp.inc, WObj.x1, 1), (.incX2, .inc, .x2, 1), (.incDp, .inc, .dp, 1),
        (.incLrb, .inc, .lrb, 1), (.incObj o, .inc, o, o.prefixLen + 1), (.decX1, .dec, .x1, 1), (.decX2, .dec, .x2,
        1), (.decDp, .dec, .dp, 1), (.decLrb, .dec, .lrb, 1), (.decObj o, .dec, o, o.prefixLen + 1)] ∧
      s.pc.toNat + len ≤ 0xFFFF ∧
      wordLoc s dst = .ok l ∧
      readW s l = .ok v ∧
      l.holdsPswh s.cfg = false ∧
      s.cfg.incDecFlag = .cf ∧
      l.isLrb s.cfg = false :=
  ⟨{ small 0x0000#16 0x0000#16 [] with cfg := bare }, .dec, .decX1, .er 0, .x1, 1, .mem 0x0080#16, 0x0000#16, test_witness_legal_bare, by decide +kernel⟩

theorem test_witness_StepByteObject :
    ∃ (s : State) (op : StepOp) (i : Instr) (o dst : BObj) (len : Nat) (l : BLoc) (v : Byte) (r : BitVec 3),
      legalConfig s.cfg ∧
      (i, op, dst, len) ∈ [(Instr.incbR r, StepOp.inc, BObj.r r, 1), (.incbObj o, .inc, o, o.prefixLen + 1), (.decbR
        r, .dec, .r r, 1), (.decbObj o, .dec, o, o.prefixLen + 1)] ∧
      s.pc.toNat + len ≤ 0xFFFF ∧
      byteLoc s dst = .ok l ∧
      readB s l = .ok v ∧
      l.holdsPswh s.cfg = false ∧
      l.isLrb s.cfg = true :=
  ⟨small 0x0000#16 0x0000#16 [], .inc, .incbObj (.zp 0x03#8), .zp 0x03#8, .zp 0x03#8, 3, .mem 0x0003#16, 0x00#8, 0, test_witness_legal, by decide +kernel⟩

theorem test_witness_RomLoad_word :
    ∃ (s : State) (n ra : Word) (o : WObj) (i : Instr) (len : Nat) (lo hi : Byte) (p : Word),
      s.pc.toNat + len ≤ 0xFFFF ∧
      i = .lcBased o n ∧
      len = o.prefixLen + 3 ∧
      loadW s o = .ok p ∧
      ra.toNat = n.toNat + p.toNat ∧
      ra.toNat < 0xFFFF ∧
      s.rom.cell ra.toNat = some lo ∧
      s.rom.cell (ra.toNat + 1) = some hi :=
  ⟨{ small 0x0000#16 0x0000#16 [(0x0084, 0x02#8)] with rom := [(0xFFFE, 0x34#8), (0xFFFF, 0x12#8)] }, 0xFFFC#16, 0xFFFE#16, .dp, .lcBased .dp 0xFFFC#16, 4, 0x34#8, 0x12#8, 0x0002#16, by decide +kernel⟩

theorem test_witness_RomLoad_byte :
    ∃ (s : State) (n ra : Word) (i : Instr) (len : Nat) (b : Byte),
      s.pc.toNat + len ≤ 0xFFFF ∧
      i = .lcbDirect n ∧
      len = 4 ∧
      ra = n ∧
      s.rom.cell ra.toNat = some b :=
  ⟨{ small 0x0000#16 0x0000#16 [] with pc := 0xFFFB#16, rom := [(0xFFFF, 0x12#8)] }, 0xFFFF#16, 0xFFFF#16, .lcbDirect 0xFFFF#16, 4, 0x12#8, by decide +kernel⟩

theorem test_witness_RomCompare_word :
    ∃ (s : State) (n ra : Word) (o : WObj) (i : Instr) (len : Nat) (lo hi : Byte) (p : Word),
      legalConfig s.cfg ∧
      s.pc.toNat + len ≤ 0xFFFF ∧
      i = .cmpcBased o n ∧
      len = o.prefixLen + 3 ∧
      loadW s o = .ok p ∧
      ra.toNat = n.toNat + p.toNat ∧
      ra.toNat < 0xFFFF ∧
      s.rom.cell ra.toNat = some lo ∧
      s.rom.cell (ra.toNat + 1) = some hi :=
  ⟨{ small 0x0000#16 0x0000#16 [(0x0084, 0x02#8)] with rom := [(0xFFFE, 0x34#8), (0xFFFF, 0x12#8)] }, 0xFFFC#16, 0xFFFE#16, .dp, .cmpcBased .dp 0xFFFC#16, 4, 0x34#8, 0x12#8, 0x0002#16, test_witness_legal, by decide +kernel⟩

theorem test_witness_RomCompare_byte :
    ∃ (s : State) (n ra : Word) (i : Instr) (len : Nat) (b : Byte),
      legalConfig s.cfg ∧
      s.pc.toNat + len ≤ 0xFFFF ∧
      i = .cmpcbDirect n ∧
      len = 4 ∧
      ra = n ∧
      s.rom.cell ra.toNat = some b :=
  ⟨{ small 0x0000#16 0x0000#16 [] with pc := 0xFFFB#16, rom := [(0xFFFF, 0x12#8)] }, 0xFFFF#16, 0xFFFF#16, .cmpcbDirect 0xFFFF#16, 4, 0x12#8, test_witness_legal, by decide +kernel⟩

theorem test_witness_AluAccumulatorWord_imm :
    ∃ (s : State) (n v : Word) (d : Byte) (e : BitVec 2) (o : WObj) (i : Instr) (op : AluOp) (len : Nat),
      legalConfig s.cfg ∧
      s.dd = true ∧
      s.pc.toNat + len ≤ 0xFFFF ∧
      (i, op) ∈ [(Instr.addAImm n, AluOp.add), (.adcAImm n, .adc), (.subAImm n, .sub), (.sbcAImm n, .sbc), (.cmpAImm
        n, .cmp), (.andAImm n, .and), (.orAImm n, .or), (.xorAImm n, .xor)] ∧
      v = n ∧
      len = 3 :=
  ⟨{ small 0x0000#16 0x1000#16 [] with pc := 0xFFFC#16 }, 0xFFFF#16, 0xFFFF#16, 0#8, 0, .er 0, .addAImm 0xFFFF#16, .add, 3, test_witness_legal, by decide +kernel⟩

theorem test_witness_AluAccumulatorWord_er :
    ∃ (s : State) (n v : Word) (d : Byte) (e : BitVec 2) (o : WObj) (i : Instr) (op : AluOp) (len : Nat),
      legalConfig s.cfg ∧
      s.dd = true ∧
      s.pc.toNat + len ≤ 0xFFFF ∧
      (i, op) ∈ [(Instr.addAEr e, AluOp.add), (.adcAEr e, .adc), (.subAEr e, .sub), (.sbcAEr e, .sbc), (.cmpAEr e,
        .cmp), (.andAEr e, .and), (.orAEr e, .or)] ∧
      loadW s (.er e) = .ok v ∧
      len = 1 :=
  ⟨small 0x0000#16 0x1000#16 [(0x00C6, 0x01#8)], 0#16, 0x0001#16, 0#8, 3, .er 0, .orAEr 3, .or, 1, test_witness_legal, by decide +kernel⟩

theorem test_witness_AluAccumulatorWord_off :
    ∃ (s : State) (n v : Word) (d : Byte) (e : BitVec 2) (o : WObj) (i : Instr) (op : AluOp) (len : Nat),
      legalConfig s.cfg ∧
      s.dd = true ∧
      s.pc.toNat + len ≤ 0xFFFF ∧
      (i, op) ∈ [(Instr.addAOff d, AluOp.add), (.adcAOff d, .adc), (.subAOff d, .sub), (.sbcAOff d, .sbc), (.cmpAOff
        d, .cmp), (.andAOff d, .and), (.orAOff d, .or), (.xorAOff d, .xor)] ∧
      loadW s (.off d) = .ok v ∧
      len = 2 :=
  ⟨small 0x0000#16 0x1000#16 [], 0#16, 0x0000#16, 0xC1#8, 0, .er 0, .cmpAOff 0xC1#8, .cmp, 2, test_witness_legal, by decide +kernel⟩

theorem test_witness_AluAccumulatorWord_obj :
    ∃ (s : State) (n v : Word) (d : Byte) (e : BitVec 2) (o : WObj) (i : Instr) (op : AluOp) (len : Nat),
      legalConfig s.cfg ∧
      s.dd = true ∧
      s.pc.toNat + len ≤ 0xFFFF ∧
      (i, op) ∈ [(Instr.addAObj o, AluOp.add), (.adcAObj o, .adc), (.subAObj o, .sub), (.sbcAObj o, .sbc), (.cmpAObj
        o, .cmp), (.andAObj o, .and), (.orAObj o, .or), (.xorAObj o, .xor)] ∧
      loadW s o = .ok v ∧
      len = o.prefixLen + 1 :=
  ⟨small 0x0000#16 0x1000#16 [], 0#16, 0x027E#16, 0#8, 0, .ssp, .subAObj .ssp, .sub, 2, test_witness_legal, by decide +kernel⟩

theorem test_witness_AluAccumulatorByte_imm :
    ∃ (s : State) (v d : Byte) (r : BitVec 3) (o : BObj) (i : Instr) (op : AluOp) (len : Nat),
      legalConfig s.cfg ∧
      s.dd = false ∧
      s.pc.toNat + len ≤ 0xFFFF ∧
      (i, op) ∈ [(Instr.addbAImm d, AluOp.add), (.adcbAImm d, .adc), (.subbAImm d, .sub), (.sbcbAImm d, .sbc),
        (.cmpbAImm d, .cmp), (.andbAImm d, .and), (.orbAImm d, .or), (.xorbAImm d, .xor)] ∧
      v = d ∧
      len = 2 :=
  ⟨{ small 0x0000#16 0x0000#16 [] with pc := 0xFFFD#16 }, 0xFF#8, 0xFF#8, 0, .r 0, .addbAImm 0xFF#8, .add, 2, test_witness_legal, by decide +kernel⟩

theorem test_witness_AluAccumulatorByte_r :
    ∃ (s : State) (v d : Byte) (r : BitVec 3) (o : BObj) (i : Instr) (op : AluOp) (len : Nat),
      legalConfig s.cfg ∧
      s.dd = false ∧
      s.pc.toNat + len ≤ 0xFFFF ∧
      (i, op) ∈ [(Instr.addbAR r, AluOp.add), (.adcbAR r, .adc), (.subbAR r, .sub), (.sbcbAR r, .sbc), (.cmpbAR r,
        .cmp), (.andbAR r, .and), (.orbAR r, .or)] ∧
      loadB s (.r r) = .ok v ∧
      len = 1 :=
  ⟨small 0x0000#16 0x0000#16 [(0x00C7, 0x01#8)], 0x01#8, 0#8, 7, .r 0, .orbAR 7, .or, 1, test_witness_legal, by decide +kernel⟩

theorem test_witness_AluAccumulatorByte_off :
    ∃ (s : State) (v d : Byte) (r : BitVec 3) (o : BObj) (i : Instr) (op : AluOp) (len : Nat),
      legalConfig s.cfg ∧
      s.dd = false ∧
      s.pc.toNat + len ≤ 0xFFFF ∧
      (i, op) ∈ [(Instr.addbAOff d, AluOp.add), (.adcbAOff d, .adc), (.subbAOff d, .sub), (.sbcbAOff d, .sbc),
        (.cmpbAOff d, .cmp), (.andbAOff d, .and), (.orbAOff d, .or), (.xorbAOff d, .xor)] ∧
      loadB s (.off d) = .ok v ∧
      len = 2 :=
  ⟨small 0x0000#16 0x0000#16 [], 0x00#8, 0xC1#8, 0, .r 0, .cmpbAOff 0xC1#8, .cmp, 2, test_witness_legal, by decide +kernel⟩

theorem test_witness_AluAccumulatorByte_obj :
    ∃ (s : State) (v d : Byte) (r : BitVec 3) (o : BObj) (i : Instr) (op : AluOp) (len : Nat),
      legalConfig s.cfg ∧
      s.dd = false ∧
      s.pc.toNat + len ≤ 0xFFFF ∧
      (i, op) ∈ [(Instr.addbAObj o, AluOp.add), (.adcbAObj o, .adc), (.subbAObj o, .sub), (.sbcbAObj o, .sbc),
        (.cmpbAObj o, .cmp), (.andbAObj o, .and), (.orbAObj o, .or), (.xorbAObj o, .xor)] ∧
      loadB s o = .ok v ∧
      len = o.prefixLen + 1 :=
  ⟨small 0x0000#16 0x2000#16 [], 0x20#8, 0#8, 0, .pswh, .subbAObj .pswh, .sub, 2, test_witness_legal, by decide +kernel⟩

theorem test_witness_AluObjectWord_a :
    ∃ (s : State) (n v b : Word) (d : Byte) (o : WObj) (l : WLoc) (i : Instr) (op : AluOp) (len : Nat),
      legalConfig s.cfg ∧
      s.pc.toNat + len ≤ 0xFFFF ∧
      wordLoc s o = .ok l ∧
      readW s l = .ok v ∧
      (op.stores = true → l.holdsPswh s.cfg = false) ∧
      (i, op) ∈ [(Instr.addObjA o, AluOp.add), (.adcObjA o, .adc), (.subObjA o, .sub), (.sbcObjA o, .sbc), (.cmpObjA
        o, .cmp), (.andObjA o, .and), (.orObjA o, .or), (.xorObjA o, .xor)] ∧
      b = s.a ∧
      len = o.prefixLen + 1 :=
  ⟨small 0x1234#16 0x0000#16 [], 0#16, 0x0018#16, 0x1234#16, 0#8, .lrb, .lrb, .addObjA .lrb, .add, 2, test_witness_legal, by decide +kernel⟩

theorem test_witness_AluObjectWord_off :
    ∃ (s : State) (n v b : Word) (d : Byte) (o : WObj) (l : WLoc) (i : Instr) (op : AluOp) (len : Nat),
      legalConfig s.cfg ∧
      s.pc.toNat + len ≤ 0xFFFF ∧
      wordLoc s o = .ok l ∧
      readW s l = .ok v ∧
      (op.stores = true → l.holdsPswh s.cfg = false) ∧
      (i, op) ∈ [(Instr.addObjOff o d, AluOp.add), (.adcObjOff o d, .adc), (.subObjOff o d, .sub), (.sbcObjOff o d,
        .sbc), (.cmpObjOff o d, .cmp), (.andObjOff o d, .and), (.orObjOff o d, .or), (.xorObjOff o d, .xor)] ∧
      loadW s (.off d) = .ok b ∧
      len = o.prefixLen + 2 ∧
      op.stores = false ∧
      l.holdsPswh s.cfg = true :=
  ⟨small 0x0000#16 0x1000#16 [], 0#16, 0x1000#16, 0x0000#16, 0xC1#8, .zp 0x04#8, .mem 0x0004#16, .cmpObjOff (.zp 0x04#8) 0xC1#8, .cmp, 4, test_witness_legal, by decide +kernel⟩

theorem test_witness_AluObjectWord_imm :
    ∃ (s : State) (n v b : Word) (d : Byte) (o : WObj) (l : WLoc) (i : Instr) (op : AluOp) (len : Nat),
      legalConfig s.cfg ∧
      s.pc.toNat + len ≤ 0xFFFF ∧
      wordLoc s o = .ok l ∧
      readW s l = .ok v ∧
      (op.stores = true → l.holdsPswh s.cfg = false) ∧
      (i, op) ∈ [(Instr.addObjImm o n, AluOp.add), (.adcObjImm o n, .adc), (.subObjImm o n, .sub), (.sbcObjImm o n,
        .sbc), (.cmpObjImm o n, .cmp), (.andObjImm o n, .and), (.orObjImm o n, .or), (.xorObjImm o n, .xor)] ∧
      b = n ∧
      len = o.prefixLen + 3 :=
  ⟨{ small 0x0000#16 0x0000#16 [] with pc := 0xFFFB#16 }, 0xFFFF#16, 0x0000#16, 0xFFFF#16, 0#8, .er 0, .mem 0x00C0#16, .xorObjImm (.er 0) 0xFFFF#16, .xor, 4, test_witness_legal, by decide +kernel⟩

theorem test_witness_AluObjectByte_a :
    ∃ (s : State) (n v b d : Byte) (o : BObj) (l : BLoc) (i : Instr) (op : AluOp) (len : Nat),
      legalConfig s.cfg ∧
      s.pc.toNat + len ≤ 0xFFFF ∧
      byteLoc s o = .ok l ∧
      readB s l = .ok v ∧
      (op.stores = true → l.holdsPswh s.cfg = false) ∧
      (i, op) ∈ [(Instr.addbObjA o, AluOp.add), (.adcbObjA o, .adc), (.subbObjA o, .sub), (.sbcbObjA o, .sbc),
        (.cmpbObjA o, .cmp), (.andbObjA o, .and), (.orbObjA o, .or), (.xorbObjA o, .xor)] ∧
      b = s.al ∧
      len = o.prefixLen + 1 :=
  ⟨small 0x1234#16 0x0000#16 [], 0#8, 0x00#8, 0x34#8, 0#8, .pswl, .pswl, .addbObjA .pswl, .add, 2, test_witness_legal, by decide +kernel⟩

theorem test_witness_AluObjectByte_off :
    ∃ (s : State) (n v b d : Byte) (o : BObj) (l : BLoc) (i : Instr) (op : AluOp) (len : Nat),
      legalConfig s.cfg ∧
      s.pc.toNat + len ≤ 0xFFFF ∧
      byteLoc s o = .ok l ∧
      readB s l = .ok v ∧
      (op.stores = true → l.holdsPswh s.cfg = false) ∧
      (i, op) ∈ [(Instr.addbObjOff o d, AluOp.add), (.adcbObjOff o d, .adc), (.subbObjOff o d, .sub), (.sbcbObjOff o
        d, .sbc), (.cmpbObjOff o d, .cmp), (.andbObjOff o d, .and), (.orbObjOff o d, .or), (.xorbObjOff o d, .xor)] ∧
      loadB s (.off d) = .ok b ∧
      len = o.prefixLen + 2 ∧
      op.stores = false ∧
      l.holdsPswh s.cfg = true :=
  ⟨small 0x0000#16 0x1000#16 [], 0#8, 0x10#8, 0x00#8, 0xC1#8, .pswh, .pswh, .cmpbObjOff .pswh 0xC1#8, .cmp, 3, test_witness_legal, by decide +kernel⟩

theorem test_witness_AluObjectByte_imm :
    ∃ (s : State) (n v b d : Byte) (o : BObj) (l : BLoc) (i : Instr) (op : AluOp) (len : Nat),
      legalConfig s.cfg ∧
      s.pc.toNat + len ≤ 0xFFFF ∧
      byteLoc s o = .ok l ∧
      readB s l = .ok v ∧
      (op.stores = true → l.holdsPswh s.cfg = false) ∧
      (i, op) ∈ [(Instr.addbObjImm o n, AluOp.add), (.adcbObjImm o n, .adc), (.subbObjImm o n, .sub), (.sbcbObjImm o
        n, .sbc), (.cmpbObjImm o n, .cmp), (.andbObjImm o n, .and), (.orbObjImm o n, .or), (.xorbObjImm o n, .xor)] ∧
      b = n ∧
      len = o.prefixLen + 2 :=
  ⟨{ small 0x0000#16 0x0000#16 [] with pc := 0xFFFC#16 }, 0xFF#8, 0x00#8, 0xFF#8, 0#8, .r 0, .mem 0x00C0#16, .sbcbObjImm (.r 0) 0xFF#8, .sbc, 3, test_witness_legal, by decide +kernel⟩

theorem test_witness_LogicOnPswh :
    ∃ (s : State) (n : Byte) (o : BObj) (l : BLoc) (i : Instr) (v : Byte),
      byteLoc s o = .ok l ∧
      l.holdsPswh s.cfg = true ∧
      s.pc.toNat + (o.prefixLen + 2) ≤ 0xFFFF ∧
      (i, v) ∈ [(Instr.andbObjImm o n, s.psw.extractLsb' 8 8 &&& n), (.orbObjImm o n, s.psw.extractLsb' 8 8 ||| n),
        (.xorbObjImm o n, s.psw.extractLsb' 8 8 ^^^ n)] :=
  ⟨{ small 0x0000#16 0xF000#16 [] with pc := 0xFFFB#16 }, 0xEF#8, .zp 0x05#8, .mem 0x0005#16, .andbObjImm (.zp 0x05#8) 0xEF#8, 0xE0#8, by decide +kernel⟩

theorem test_witness_Multiply_Divide :
    ∃ (s : State) (b hi d : Word) (c : Byte),
      legalConfig s.cfg ∧
      s.pc.toNat + 2 ≤ 0xFFFF ∧
      loadW s (.er 0) = .ok b ∧
      loadB s (.r 0) = .ok c ∧
      loadW s (.er 0) = .ok hi ∧
      loadW s (.er 2) = .ok d ∧
      (WLoc.mem (erAddr s 1)).accessible s.cfg = true ∧
      (WLoc.mem (erAddr s 0)).holdsPswh s.cfg = false ∧
      (WLoc.mem (erAddr s 1)).holdsPswh s.cfg = false ∧
      regAt s.cfg (erAddr s 0) ≠ some .acc ∧ d ≠ 0#16 ∧
      regAt s.cfg (erAddr s 1) ≠ some .acc :=
  ⟨{ small 0xFFFF#16 0x0000#16 [(0x00C0, 0x02#8), (0x00C4, 0x03#8)] with pc := 0xFFFD#16 }, 0x0002#16, 0x0002#16, 0x0003#16, 0x02#8, test_witness_legal, by decide +kernel⟩

theorem test_witness_Divide_byte :
    ∃ (s : State) (d : Byte),
      legalConfig s.cfg ∧
      s.pc.toNat + 2 ≤ 0xFFFF ∧
      loadB s (.r 0) = .ok d ∧
      (BLoc.mem (rAddr s 1)).accessible s.cfg = true ∧
      (BLoc.mem (rAddr s 1)).holdsPswh s.cfg = false ∧
      regAt s.cfg (rAddr s 1) ≠ some .acc :=
  ⟨small 0xFFFF#16 0x0000#16 [(0x00C0, 0x02#8)], 0x02#8, test_witness_legal, by decide +kernel⟩

theorem test_witness_SetResetBit :
    ∃ (s : State) (o : BObj) (k n : BitVec 3) (i : Instr) (b : Bool) (l : BLoc) (v : Byte),
      legalConfig s.cfg ∧
      (i, n, b) ∈ [(Instr.sbBit o k, k, true), (.rbBit o k, k, false), (.sbrObj o, s.a.setWidth 3, true), (.rbrObj o,
        s.a.setWidth 3, false)] ∧
      s.pc.toNat + (o.prefixLen + 1) ≤ 0xFFFF ∧
      byteLoc s o = .ok l ∧
      readB s l = .ok v ∧
      l.holdsPswh s.cfg = false :=
  ⟨small 0x0000#16 0x0000#16 [(0x00C7, 0x80#8)], .r 7, 7, 7, .rbBit (.r 7) 7, false, .mem 0x00C7#16, 0x80#8, test_witness_legal, by decide +kernel⟩

theorem test_witness_SetResetBit_pswh :
    ∃ (s : State) (o : BObj) (k n : BitVec 3) (i : Instr) (b : Bool) (l : BLoc) (v : Byte),
      legalConfig s.cfg ∧
      (i, n, b) ∈ [(Instr.sbBit o k, k, true), (.rbBit o k, k, false), (.sbrObj o, s.a.setWidth 3, true), (.rbrObj o,
        s.a.setWidth 3, false)] ∧
      s.pc.toNat + (o.prefixLen + 1) ≤ 0xFFFF ∧
      byteLoc s o = .ok l ∧
      readB s l = .ok v ∧
      l.holdsPswh s.cfg = true :=
  ⟨small 0x0004#16 0x0000#16 [], .pswh, 0, 4, .sbrObj .pswh, true, .pswh, 0x00#8, test_witness_legal, by decide +kernel⟩

theorem test_witness_TestMoveBit :
    ∃ (s : State) (o : BObj) (k n : BitVec 3) (i j : Instr) (l : BLoc) (v : Byte),
      s.pc.toNat + (o.prefixLen + 1) ≤ 0xFFFF ∧
      byteLoc s o = .ok l ∧
      readB s l = .ok v ∧
      (i, n) ∈ [(Instr.mbCBit o k, k), (.mbrCObj o, s.a.setWidth 3)] ∧
      (j, n) ∈ [(Instr.mbBitC o k, k), (.mbrObjC o, s.a.setWidth 3)] :=
  ⟨small 0x0007#16 0x8000#16 [], .pswh, 0, 7, .mbrCObj .pswh, .mbrObjC .pswh, .pswh, 0x80#8, by decide +kernel⟩

theorem test_witness_ConditionalJumps_jc :
    ∃ (s : State) (rel : Byte) (tgt : Word) (i : Instr) (len : Nat) (taken : Bool),
      (i, len, taken) ∈ [(Instr.jcGt rel, 2, !s.flag .zf && !s.flag .cf), (.jcEq rel, 2, s.flag .zf), (.jcLt rel, 2,
        s.flag .cf), (.jcGe rel, 2, !s.flag .cf), (.jcNe rel, 2, !s.flag .zf), (.jcLe rel, 2, s.flag .zf || s.flag
        .cf)] ∧
      (if taken then (tgt.toNat : Int) = s.pc.toNat + len + rel.toInt else tgt.toNat = s.pc.toNat + len) :=
  ⟨{ small 0x0000#16 0x4000#16 [] with pc := 0xFF7E#16 }, 0x7F#8, 0xFFFF#16, .jcEq 0x7F#8, 2, true, by decide +kernel⟩

theorem test_witness_ConditionalJumps_bit :
    ∃ (s : State) (rel : Byte) (tgt : Word) (i : Instr) (len : Nat) (taken : Bool) (d v : Byte) (n : BitVec 3),
      readByte s (pageAddr s d) = .ok v ∧
      (i, len, taken) ∈ [(Instr.jbs n d rel, 3, v.getLsbD n.toNat), (.jbr n d rel, 3, !v.getLsbD n.toNat)] ∧
      (if taken then (tgt.toNat : Int) = s.pc.toNat + len + rel.toInt else tgt.toNat = s.pc.toNat + len) :=
  ⟨{ small 0x0000#16 0x0000#16 [(0x00D0, 0x7F#8)] with pc := 0xFFFC#16 }, 0x80#8, 0xFFFF#16, .jbs 7 0xD0#8 0x80#8, 3, false, 0xD0#8, 0x7F#8, 7, by decide +kernel⟩

theorem test_witness_LoopJump_ends :
    ∃ (s : State) (rel v : Byte) (tgt : Word),
      legalConfig s.cfg ∧
      readByte s (ptrAddr s .dp) = .ok v ∧
      (if v = 1#8 then tgt.toNat = s.pc.toNat + 2 else (tgt.toNat : Int) = s.pc.toNat + 2 + rel.toInt) :=
  ⟨small 0x0000#16 0x0000#16 [(0x0084, 0x01#8)], 0x80#8, 0x01#8, 0x0202#16, test_witness_legal, by decide +kernel⟩

theorem test_witness_LoopJump_wraps :
    ∃ (s : State) (rel v : Byte) (tgt : Word),
      legalConfig s.cfg ∧
      readByte s (ptrAddr s .dp) = .ok v ∧
      (if v = 1#8 then tgt.toNat = s.pc.toNat + 2 else (tgt.toNat : Int) = s.pc.toNat + 2 + rel.toInt) :=
  ⟨small 0x0000#16 0x0000#16 [], 0x7F#8, 0x00#8, 0x0281#16, test_witness_legal, by decide +kernel⟩

theorem test_witness_Calls_scal :
    ∃ (s : State) (tgt : Word) (i : Instr) (len : Nat) (rel : Byte),
      s.pc.toNat + len ≤ 0xFFFF ∧
      2 ≤ s.ssp.toNat ∧
      (WLoc.mem s.ssp).accessible s.cfg = true ∧
      regAt s.cfg s.ssp = none ∧
      i = .scal rel ∧
      len = 2 ∧
      (tgt.toNat : Int) = s.pc.toNat + 2 + rel.toInt :=
  ⟨{ small 0x0000#16 0x0000#16 [] with pc := 0x007E#16 }, 0x0000#16, .scal 0x80#8, 2, 0x80#8, by decide +kernel⟩

theorem test_witness_Calls_address :
    ∃ (s : State) (tgt : Word) (i : Instr) (len : Nat),
      s.pc.toNat + len ≤ 0xFFFF ∧
      2 ≤ s.ssp.toNat ∧
      (WLoc.mem s.ssp).accessible s.cfg = true ∧
      regAt s.cfg s.ssp = none ∧
      i = .calAddr tgt ∧
      len = 3 :=
  ⟨{ small 0x0000#16 0x0000#16 [] with pc := 0xFFFC#16 }, 0x4000#16, .calAddr 0x4000#16, 3, by decide +kernel⟩

theorem test_witness_Calls_object :
    ∃ (s : State) (tgt : Word) (i : Instr) (len : Nat) (o : WObj),
      s.pc.toNat + len ≤ 0xFFFF ∧
      2 ≤ s.ssp.toNat ∧
      (WLoc.mem s.ssp).accessible s.cfg = true ∧
      regAt s.cfg s.ssp = none ∧
      i = .calObj o ∧
      len = o.prefixLen + 1 ∧
      loadW s o = .ok tgt :=
  ⟨small 0x0000#16 0x0000#16 [(0x0080, 0x34#8)], 0x0034#16, .calObj .x1, 2, .x1, by decide +kernel⟩

theorem test_witness_Calls_vcal :
    ∃ (s : State) (tgt : Word) (i : Instr) (len : Nat) (n : BitVec 3) (lo hi : Byte),
      s.pc.toNat + len ≤ 0xFFFF ∧
      2 ≤ s.ssp.toNat ∧
      (WLoc.mem s.ssp).accessible s.cfg = true ∧
      regAt s.cfg s.ssp = none ∧
      i = .vcal n ∧
      len = 1 ∧
      s.rom.cell (0x28 + 2 * n.toNat) = some lo ∧
      s.rom.cell (0x29 + 2 * n.toNat) = some hi ∧
      tgt = mkWord hi lo :=
  ⟨{ small 0x0000#16 0x0000#16 [] with rom := [(0x0036, 0x00#8), (0x0037, 0x40#8)] }, 0x4000#16, .vcal 7, 1, 7, 0x00#8, 0x40#8, by decide +kernel⟩

theorem test_witness_ReturnRt :
    ∃ (s : State) (v : Word),
      s.ssp.toNat + 2 ≤ 0xFFFF ∧
      readWord s (s.ssp + 2#16) = .ok v :=
  ⟨{ small 0x0000#16 0x0000#16 [(0x027F, 0x12#8)] with ssp := 0x027C#16 }, 0x1200#16, by decide +kernel⟩

theorem test_witness_ReturnRt_after_call :
    ∃ (s : State),
      s.pc.toNat + 3 ≤ 0xFFFF ∧
      2 ≤ s.ssp.toNat ∧
      regAt s.cfg s.ssp = none ∧
      (WLoc.mem s.ssp).accessible s.cfg = true :=
  ⟨{ small 0x0000#16 0x0000#16 [] with pc := 0xFFFC#16 }, by decide +kernel⟩

/-- A state with a frame for RTI at SSP + 2. -/
def rtiFrame : State := { small 0x0000#16 0x0000#16 [(0x0279, 0xD0#8), (0x027F, 0x12#8)] with ssp := 0x0276#16 }

theorem test_witness_ReturnRti :
    rtiFrame.ssp.toNat + 8 ≤ 0xFFFF ∧ readWord rtiFrame (rtiFrame.ssp + 2#16) = .ok 0xD000#16 ∧
      readWord rtiFrame (rtiFrame.ssp + 4#16) = .ok 0x0000#16 ∧
      readWord rtiFrame (rtiFrame.ssp + 6#16) = .ok 0x0000#16 ∧
      readWord rtiFrame (rtiFrame.ssp + 8#16) = .ok 0x1200#16 ∧
      ∀ k ∈ [4#16, 6#16, 8#16], regAt rtiFrame.cfg (rtiFrame.ssp + k) ≠ some .ssp := by
  refine ⟨by decide +kernel, by decide +kernel, by decide +kernel, by decide +kernel, by decide +kernel, fun k hk => ?_⟩
  fin_cases hk <;> decide +kernel

theorem test_witness_IllegalCodes :
    ∃ (s t : State) (e : BitVec 2) (r : BitVec 3) (n : Word) (d sfx lo hi : Byte) (i : Instr),
      i ∈ [Instr.wpEr e sfx, .wpX1 sfx, .wpX2 sfx, .wpDp sfx, .wpSsp sfx, .wpUsp sfx, .wpLrb sfx, .wpX1Ind n sfx,
        .wpX2Ind n sfx, .wpDpInd sfx, .wpUspInd d sfx, .wpOff d sfx, .wpZp d sfx, .bpR r sfx, .bpPswh sfx, .bpPswl
        sfx, .bpX1Ind n sfx, .bpX2Ind n sfx, .bpDpInd sfx, .bpUspInd d sfx, .bpOff d sfx, .bpZp d sfx, .illegal sfx] ∧
      s.cfg.illegalOpcode = .refuse ∧
      t.cfg.illegalOpcode = .optrap ∧
      t.rom.cell 4 = some lo ∧
      t.rom.cell 5 = some hi :=
  ⟨small 0x0000#16 0x0000#16 [], { small 0x0000#16 0x0000#16 [] with cfg := { Config.candidate with illegalOpcode := .optrap }, rom := [(4, 0x00#8), (5, 0x05#8)] }, 3, 7, 0xFFFF#16, 0xFF#8, 0xFF#8, 0x00#8, 0x05#8, .bpX2Ind 0xFFFF#16 0xFF#8, by decide +kernel⟩

theorem test_witness_DataDescriptorRefusals :
    ∃ (s t : State) (o : WObj) (p : BObj) (i j : Instr) (b : Byte),
      s.dd = false ∧
      i ∈ [Instr.addAObj o, .adcAObj o, .subAObj o, .sbcAObj o, .cmpAObj o, .andAObj o, .orAObj o, .xorAObj o,
        .xchgAObj o] ∧
      t.dd = true ∧
      j ∈ [Instr.addbAObj p, .adcbAObj p, .subbAObj p, .sbcbAObj p, .cmpbAObj p, .andbAObj p, .orbAObj p, .xorbAObj p,
        .xchgbAObj p] ∧
      b &&& 0xFC#8 ∈ [0x8C#8, 0x0C#8, 0x1C#8, 0x2C#8, 0x3C#8, 0x4C#8, 0x5C#8, 0x6C#8] ∧
      t.due = none ∧
      decode t.cfg.opcodes t.dd (fetchBytes t.rom t.pc.toNat 6) = .noWordRegister :=
  ⟨small 0x0000#16 0x0000#16 [], { small 0x0000#16 0x1000#16 [] with rom := [(0x0200, 0x6F#8)] }, .x1, .pswh, .xchgAObj .x1, .addbAObj .pswh, 0x6F#8, by decide +kernel⟩

/-- A legal setting in which A alone is shown, at 0002H, and all of data memory is RAM. -/
def accAt2 : Config := { bare with addrAcc := some 0x0002#16, regions := [⟨0, 0xFFFF, .ram⟩] }

/-- A state in which er1 is A. -/
def er1IsA (a : Word) : State :=
  { small a 0x0000#16 [(0x0000, 0x07#8), (0x0004, 0x05#8)] with
    cfg := accAt2
    lrb := 0x0000#13 }

theorem test_witness_Multiply_Divide_overA :
    legalConfig (er1IsA 0x1234#16).cfg ∧
      loadW (er1IsA 0x1234#16) (.er 0) = .ok 0x0007#16 ∧ loadW (er1IsA 0x1234#16) (.er 2) = .ok 0x0005#16 ∧
      (WLoc.mem (erAddr (er1IsA 0x1234#16) 1)).accessible accAt2 = true ∧
      (WLoc.mem (erAddr (er1IsA 0x1234#16) 0)).holdsPswh accAt2 = false ∧
      (WLoc.mem (erAddr (er1IsA 0x1234#16) 1)).holdsPswh accAt2 = false ∧
      regAt accAt2 (erAddr (er1IsA 0x1234#16) 1) = some .acc := by
  unfold legalConfig
  decide +kernel

/-- Hand calculation: 1234H * 0007H = 7F6CH. -/
theorem test_mul_er1_is_a :
    (match exec .mul (er1IsA 0x1234#16) with | .next t => t.a | _ => 0#16) = 0x7F6C#16 := by decide +kernel

/-- Hand calculation: 71234H = 463412 = 5 * 92682 + 2, and the remainder is written last. -/
theorem test_div_er1_is_a :
    (match exec .div (er1IsA 0x1234#16) with | .next t => t.a | _ => 0#16) = 0x0002#16 := by decide +kernel

/-- A pop of the word that is SSP itself gives the old SSP (log entry 22). -/
theorem test_pop_of_ssp :
    (pop16 { small 0#16 0#16 [] with cfg := { accAt2 with addrSsp := some 0x0010#16 }, ssp := 0x000E#16 }).toOption.map
      (fun x => (x.1, x.2.ssp)) = some (0x000E#16, 0x0010#16) := by decide +kernel

/-- Where the pushed PC lands on A, the entry still saves the A of before it (log entry 22). -/
theorem test_interrupt_over_a :
    (takeInterrupt .int0 { liveInt0 with cfg := { accAt2 with addrAcc := some 0x0010#16 }, ssp := 0x0010#16 }).toOption.map
      (fun t => (t.a, (readWord t 0x000E#16).toOption)) = some (0x0200#16, some 0x1234#16) := by decide +kernel

theorem test_witness_StackRefusals :
    { small 0#16 0#16 [] with ssp := 0x0001#16 }.ssp.toNat < 2 ∧
      { small 0#16 0#16 [] with ssp := 0x0001#16, pc := 0xFFFC#16 }.pc.toNat + 3 ≤ 0xFFFF ∧
      0xFFFF < { small 0#16 0#16 [] with ssp := 0xFFFE#16 }.ssp.toNat + 2 := by decide

theorem test_witness_StackRefusals_interrupt :
    { liveInt0 with ssp := 0x0007#16 }.due = some (.interrupt .int0) ∧
      { liveInt0 with ssp := 0x0007#16 }.ssp.toNat < 8 ∧
      ∀ k, 2 * k + 2 ≤ { liveInt0 with ssp := 0x0007#16 }.ssp.toNat →
        (WLoc.mem ({ liveInt0 with ssp := 0x0007#16 }.ssp - BitVec.ofNat 16 (2 * k))).accessible
          { liveInt0 with ssp := 0x0007#16 }.cfg = true := by
  refine ⟨by decide, by decide, fun k hk => ?_⟩
  have : k < 3 := by
    have h : { liveInt0 with ssp := 0x0007#16 }.ssp.toNat = 7 := rfl
    omega
  interval_cases k <;> decide +kernel

theorem test_witness_StackRefusals_rti :
    { er1IsA 0#16 with ssp := 0xFFF9#16 }.ssp.toNat + 2 * 3 ≤ 0xFFFF ∧
      0xFFFF < { er1IsA 0#16 with ssp := 0xFFF9#16 }.ssp.toNat + 2 * 3 + 2 ∧
      ∀ j, j < 3 → ∃ v, readWord { er1IsA 0#16 with ssp := 0xFFF9#16 }
        ({ er1IsA 0#16 with ssp := 0xFFF9#16 }.ssp + BitVec.ofNat 16 (2 * j + 2)) = .ok v := by
  refine ⟨by decide, by decide, fun j hj => ⟨0#16, ?_⟩⟩
  interval_cases j <;> decide +kernel

theorem test_witness_AddressRefusals_next :
    0xFFFF < { small 0#16 0#16 [] with pc := 0xFFFF#16 }.pc.toNat + 1 ∧
      0xFFFF < { small 0#16 0#16 [] with pc := 0xFFFD#16 }.pc.toNat + 3 ∧
      decode Opcodes.candidate false (fetchBytes (Memory.load [] 0xFFFE [0x67#8, 0x00#8]) 0xFFFE 6) = .incomplete ∧
      0xFFFF < 0xFFFE + (fetchBytes (Memory.load [] 0xFFFE [0x67#8, 0x00#8]) 0xFFFE 6).length := by decide +kernel

theorem test_witness_AddressRefusals_target :
    (!(small 0#16 0#16 []).flag .zf) = true ∧
      ({ small 0#16 0#16 [] with pc := 0x007D#16 }.pc.toNat : Int) + (2 : Nat) + (0x80#8).toInt < 0 ∧
      0xFFFF < ({ small 0#16 0#16 [] with pc := 0xFF7E#16 }.pc.toNat : Int) + (3 : Nat) + (0x7F#8).toInt ∧
      readByte (small 0#16 0#16 [(0x00D0, 0x7F#8)]) (pageAddr (small 0#16 0#16 []) 0xD0#8) = .ok 0x7F#8 ∧
      readByte (small 0#16 0#16 [(0x0084, 0x01#8)]) (ptrAddr (small 0#16 0#16 []) .dp) = .ok 0x01#8 ∧
      0xFFFF < { small 0#16 0#16 [] with pc := 0xFFFE#16 }.pc.toNat + 2 := by decide +kernel

theorem test_witness_AddressRefusals_rom :
    loadW (small 0#16 0#16 [(0x0084, 0x01#8)]) .dp = .ok 0x0001#16 ∧ 0xFFFF < (0xFFFF#16).toNat + (0x0001#16).toNat ∧
      (0xFFFE#16).toNat + (0x0001#16).toNat = 0xFFFF ∧
      loadW (small 0#16 0#16 [(0x0084, 0xFF#8), (0x0085, 0xFF#8)]) .dp = .ok 0xFFFF#16 := by decide +kernel

/-- A state whose system stack lies over A at 0002H and over SSP itself at 0004H. -/
def frameOverSsp : State := { er1IsA 0x1234#16 with cfg := { accAt2 with addrSsp := some 0x0004#16 }, ssp := 0x0000#16 }

theorem test_witness_ReturnRti_overRegisters :
    legalConfig frameOverSsp.cfg ∧ readWord frameOverSsp 0x0002#16 = .ok 0x1234#16 ∧
      readWord { frameOverSsp with ssp := 0x0002#16 } 0x0004#16 = .ok 0x0002#16 ∧
      readWord { frameOverSsp with ssp := 0x0004#16 } 0x0006#16 = .ok 0x0000#16 ∧
      readWord { frameOverSsp with ssp := 0x0006#16 } 0x0008#16 = .ok 0x0000#16 := by
  unfold legalConfig; decide +kernel

/-- A state whose four frame words end at the top of data memory. -/
def frameAtTop : State := { er1IsA 0#16 with ssp := 0xFFF7#16 }

theorem test_witness_ReturnRti_top :
    frameAtTop.ssp.toNat + 8 = 0xFFFF ∧ readWord frameAtTop 0xFFF9#16 = .ok 0x0000#16 ∧
      readWord frameAtTop 0xFFFB#16 = .ok 0x0000#16 ∧ readWord frameAtTop 0xFFFD#16 = .ok 0x0000#16 ∧
      readWord frameAtTop 0xFFFF#16 = .ok 0x0000#16 ∧ frameAtTop.cfg.addrSsp = none := by decide +kernel

/-- Whether an outcome is a next state. -/
def goesOn : Host.Outcome State Fault Refusal → Bool
  | .next _ => true
  | _ => false

theorem test_witness_AddressRefusals_complete :
    goesOn (exec (.lZp 0x80#8) (small 0#16 0#16 [])) = true ∧
      goesOn (exec (.movObjA .ssp) (small 0#16 0#16 [])) = true ∧
      goesOn (exec (.addAOff 0xD0#8) (small 0#16 0x1000#16 [])) = true ∧ (small 0#16 0x1000#16 []).dd = true ∧
      encode Opcodes.candidate (.lZp 0x80#8) = some [0xE5#8, 0x80#8] ∧ 0xFFFF < 0xFFFE + [0xE5#8, 0x80#8].length ∧
      encode Opcodes.candidate (.movObjA .ssp) = some [0xA0#8, 0x8A#8] ∧
      encode Opcodes.candidate (.addAOff 0xD0#8) = some [0x87#8, 0xD0#8] ∧
      ∀ i ∈ [Instr.lZp 0x80#8, .movObjA .ssp, .addAOff 0xD0#8], i.transfers = false := by decide +kernel

theorem test_witness_PswhRefusals :
    byteLoc (small 0#16 0#16 []) (.zp 0x05#8) = .ok (.mem 0x0005#16) ∧
      (BLoc.mem 0x0005#16).holdsPswh Config.candidate = true ∧ BLoc.pswh.holdsPswh Config.candidate = true ∧
      loadB (small 0#16 0#16 []) (.off 0xD0#8) = .ok 0x00#8 ∧
      wordLoc (small 0#16 0#16 []) (.zp 0x05#8) = .ok (.mem 0x0005#16) ∧
      (WLoc.mem 0x0005#16).holdsPswh Config.candidate = true ∧
      loadW (small 0#16 0#16 []) (.off 0xD0#8) = .ok 0x0000#16 := by decide +kernel

/-- A state whose local registers lie at 0000H to 0007H; PSW is shown at 0002H or at 0000H, so it is er1 or er0. -/
def pswAmongLocals (a : Word) : State :=
  { small 0#16 0#16 [] with
    cfg := { accAt2 with addrAcc := none, addrPsw := some a }
    lrb := 0x0000#13 }

theorem test_witness_PswhRefusals_local :
    loadW (pswAmongLocals 0x0002#16) (.er 0) = .ok 0x0000#16 ∧ loadW (pswAmongLocals 0x0002#16) (.er 2) = .ok 0x0000#16 ∧
      (WLoc.mem (erAddr (pswAmongLocals 0x0002#16) 1)).holdsPswh (pswAmongLocals 0x0002#16).cfg = true ∧
      (WLoc.mem (erAddr (pswAmongLocals 0x0000#16) 0)).holdsPswh (pswAmongLocals 0x0000#16).cfg = true ∧
      loadB (pswAmongLocals 0x0000#16) (.r 0) = .ok 0x00#8 ∧
      (BLoc.mem (rAddr (pswAmongLocals 0x0000#16) 1)).holdsPswh (pswAmongLocals 0x0000#16).cfg = true ∧
      byteLoc (pswAmongLocals 0x0002#16) (.r 3) = .ok (.mem 0x0003#16) ∧
      (BLoc.mem 0x0003#16).holdsPswh (pswAmongLocals 0x0002#16).cfg = true := by decide +kernel

/-- X1 over PSW needs a register address the spec does not admit; the refusal holds there too. -/
theorem test_witness_PswhRefusals_x1 :
    wordLoc (pswAmongLocals 0x0080#16) .x1 = .ok (.mem 0x0080#16) ∧
      (WLoc.mem 0x0080#16).holdsPswh (pswAmongLocals 0x0080#16).cfg = true := by decide +kernel

theorem test_witness_AluIsExact_ShiftsAreExact :
    ∃ (w : Nat) (a b : BitVec w) (c : Bool) (op : AluOp) (k : Bool),
      (w = 16 ∨ w = 8) ∧
      (op, k) ∈ [(AluOp.add, false), (.adc, c)] ∧
      0 < w :=
  ⟨8, 0xFF#8, 0x01#8, true, .adc, true, by decide +kernel⟩

end Sys2Proof.Tests
end

section
/-! Proofs about the reset state and about a step at which no event is due (spec/00_scope.md R9, R15). -/

namespace Sys2Proof.Machine

/-! The reset state. -/

/-- A memory that lists nothing is in canonical form. -/
theorem Memory.wf_nil : Memory.wf [] :=
  ⟨⟨.nil, fun _ h => absurd h List.not_mem_nil⟩, fun _ h => absurd h List.not_mem_nil⟩

/-- After reset no byte of either memory is listed, so both are in canonical form. -/
theorem inv_reset : Inv State.reset :=
  ⟨Memory.wf_nil, Memory.wf_nil.1, fun _ h => absurd h List.not_mem_nil⟩

theorem flagBitsLegal_candidate : flagBitsLegal Config.candidate = true := by decide

theorem registerAddrsLegal_candidate : registerAddrsLegal Config.candidate = true := by decide

theorem opcodes_legal_candidate : Opcodes.candidate.legal = true := by decide

/-- The candidate parameters are ones the spec admits (spec/00_scope.md R9). -/
theorem legalConfig_candidate : legalConfig Config.candidate :=
  ⟨flagBitsLegal_candidate, registerAddrsLegal_candidate, opcodes_legal_candidate⟩

/-- Settles O2: nothing is listed in memory after reset, and each group of candidates is checked on its own. -/
theorem invariantAtReset : Obligations.InvariantAtReset :=
  ⟨inv_reset, legalConfig_candidate⟩

/-! A step at which no event is due. -/

theorem Environment.choice_of_instruction {env : Environment} {rest : List Turn}
    (h : env.schedule = .instruction :: rest) : env.choice = none := by
  unfold Environment.choice; rw [h]

theorem Environment.choice_of_event {env : Environment} {e : Event} {rest : List Turn}
    (h : env.schedule = .event e :: rest) : env.choice = some e := by
  unfold Environment.choice; rw [h]

/-- Once the schedule has run out the choice is free (log entry 20). -/
theorem Environment.choice_of_run_out {env : Environment} (h : env.schedule = []) :
    env.choice = Config.freeEvent env.passed := by
  unfold Environment.choice; rw [h]

/-- No event is due where the environment chooses an instruction. -/
theorem State.due_of_instruction {s : State} {rest : List Turn} (h : s.env.schedule = .instruction :: rest) :
    s.due = none :=
  State.due_eq_none.mpr fun e _ => by simp [Environment.choice_of_instruction h]

/-- An event outside `INT_LIVE` is not due, though the environment chooses it (spec/60_exceptions.md R460). -/
theorem State.due_of_not_live {s : State} {e : Event} {rest : List Turn} (h : s.env.schedule = .event e :: rest)
    (hlive : e ∉ s.cfg.intLive) : s.due = none :=
  State.due_eq_none.mpr fun x hx hc => by
    rw [Environment.choice_of_event h] at hc
    exact hlive (Option.some.inj hc ▸ hx)

/-- No event is due where the schedule has run out and the free choice is no live event. -/
theorem State.due_of_run_out {s : State} (h : s.env.schedule = [])
    (hfree : ∀ e ∈ s.cfg.intLive, Config.freeEvent s.env.passed ≠ some e) : s.due = none :=
  State.due_eq_none.mpr fun e he => by rw [Environment.choice_of_run_out h]; exact hfree e he

/-- Passing a boundary changes nothing the fetch reads. -/
@[simp] theorem fetch_passBoundary (s : State) : fetch s.passBoundary = fetch s := rfl

theorem runInstruction_of_fetch {s : State} {i : Instr} {n : Nat} (h : fetch s = .instr i n) :
    runInstruction s = exec i s := by
  unfold runInstruction; rw [h]

/-- Where no event is due, a step runs the instruction that is fetched (spec/00_scope.md R15). -/
theorem step_of_fetch {s : State} {i : Instr} {n : Nat} (hdue : s.due = none) (hf : fetch s = .instr i n) :
    step s = exec i s.passBoundary := by
  rw [step_of_none_due hdue]
  exact runInstruction_of_fetch ((fetch_passBoundary s).trans hf)

/-- Settles O6: in each of the four ways no event is due, so the step is the run of what is fetched. -/
theorem stepRunsDecoded : Obligations.StepRunsDecoded := by
  intro s i n hdecode hquiet
  have hdue : s.due = none := by
    obtain hempty | ⟨rest, hturn⟩ | ⟨e, rest, hturn, hlive⟩ | ⟨hout, hfree⟩ := hquiet
    · exact State.due_of_quiet hempty
    · exact State.due_of_instruction hturn
    · exact State.due_of_not_live hturn hlive
    · exact State.due_of_run_out hout hfree
  exact step_of_fetch hdue hdecode

end Sys2Proof.Machine
end

section
/-! Proofs about the state after reset and about where registers and operands lie (spec/10_state.md R35 to R46,
spec/30_encoding.md R116 to R120). -/

namespace Sys2Proof.Machine

/-- Settles O1: every value is the one State.reset is defined with. -/
theorem resetState : Obligations.ResetState :=
  ⟨by decide, by decide, rfl, rfl, rfl, rfl, rfl, rfl, rfl, rfl⟩

/-! Registers and operands at their data addresses. -/

theorem lrb_row_toNat (s : State) : (s.lrb.extractLsb' 0 5).toNat = s.lrb.toNat % 32 := by
  rw [BitVec.extractLsb'_toNat, Nat.shiftRight_zero]

/-- Settles O14: LRB shifted left by three is its page times 256 and its row times 8. -/
theorem registerAddresses : Obligations.RegisterAddresses := by
  intro s r
  refine ⟨?_, rfl, rfl, ?_⟩
  · rw [lrBase_toNat, lrb_page_toNat, lrb_row_toNat]
    omega
  · rw [rAddr_toNat, lrBase_toNat]

theorem erAddr_toNat_lrBase (s : State) (e : BitVec 2) : (erAddr s e).toNat = (lrBase s).toNat + 2 * e.toNat := by
  rw [erAddr_toNat, lrBase_toNat]

theorem lrBase_aligned (s : State) : (lrBase s).toNat % 8 = 0 := by
  rw [lrBase_toNat, Nat.mul_mod_left]

theorem pageAddr_toNat (s : State) (n : Byte) :
    (pageAddr s n).toNat = (s.lrb.extractLsb' 5 8).toNat * 256 + n.toNat := mkWord_toNat _ _

theorem zeroPageAddr_toNat (n : Byte) : (zeroPageAddr n).toNat = n.toNat :=
  BitVec.toNat_setWidth_of_le (by decide)

/-- The word object that is a pointing register. -/
def Ptr.obj : Ptr → WObj
  | .x1 => .x1
  | .x2 => .x2
  | .dp => .dp
  | .usp => .usp

theorem wordLoc_ptr (s : State) (p : Ptr) : wordLoc s p.obj = .ok (.mem (ptrAddr s p)) := by cases p <;> rfl

/-- Each pointing register is at its offset in the set SCB selects (spec/10_state.md R38). -/
theorem ptr_location (s : State) {o : WObj} {off : Nat}
    (h : (o, off) ∈ [(WObj.x1, 0x80), (.x2, 0x82), (.dp, 0x84), (.usp, 0x86)]) :
    ∃ a : Word, wordLoc s o = .ok (.mem a) ∧ a.toNat = off + 8 * (s.psw.extractLsb' 0 3).toNat := by
  have at_ptr (p : Ptr) (ho : o = p.obj) (hoff : off = 0x80 + p.offset.toNat) :
      ∃ a : Word, wordLoc s o = .ok (.mem a) ∧ a.toNat = off + 8 * s.scb.toNat :=
    ⟨ptrAddr s p, ho ▸ wordLoc_ptr s p, by rw [ptrAddr_toNat]; omega⟩
  simp only [List.mem_cons, Prod.mk.injEq, List.not_mem_nil, or_false] at h
  obtain ⟨ho, hoff⟩ | ⟨ho, hoff⟩ | ⟨ho, hoff⟩ | ⟨ho, hoff⟩ := h
  · exact at_ptr .x1 ho hoff
  · exact at_ptr .x2 ho hoff
  · exact at_ptr .dp ho hoff
  · exact at_ptr .usp ho hoff

/-- The objects behind a pointer are at the pointer's value, with the index added or the displacement applied. -/
theorem loc_of_pointer {s : State} {p : Word} (n : Word) (d : Byte) :
    (readWord s (ptrAddr s .dp) = .ok p → wordLoc s .dpInd = .ok (.mem p) ∧ byteLoc s .dpInd = .ok (.mem p)) ∧
    (readWord s (ptrAddr s .x1) = .ok p →
      wordLoc s (.x1Ind n) = .ok (.mem (n + p)) ∧ byteLoc s (.x1Ind n) = .ok (.mem (n + p))) ∧
    (readWord s (ptrAddr s .x2) = .ok p →
      wordLoc s (.x2Ind n) = .ok (.mem (n + p)) ∧ byteLoc s (.x2Ind n) = .ok (.mem (n + p))) ∧
    (readWord s (ptrAddr s .usp) = .ok p →
      wordLoc s (.uspInd d) = (displaced p d).map .mem ∧ byteLoc s (.uspInd d) = (displaced p d).map .mem) := by
  refine ⟨fun h => ?_, fun h => ?_, fun h => ?_, fun h => ?_⟩ <;> unfold wordLoc byteLoc <;> rw [h]
  · exact ⟨rfl, rfl⟩
  · exact ⟨rfl, rfl⟩
  · exact ⟨rfl, rfl⟩
  · simp only [Res.bind_ok]
    cases displaced p d <;> exact ⟨rfl, rfl⟩

/-- Settles O15: the register and page addresses as numbers, and a pointer's operand from what the pointer reads. -/
theorem operandAddresses : Obligations.OperandAddresses := by
  refine ⟨fun s e n => ⟨rfl, erAddr_toNat_lrBase s e, lrBase_aligned s, fun o off h => ptr_location s h,
    pageAddr_toNat s n, zeroPageAddr_toNat n, rfl, rfl, rfl, rfl⟩, fun s p n ea d => ?_⟩
  obtain ⟨hdp, hx1, hx2, husp⟩ := loc_of_pointer (s := s) (p := p) n d
  refine ⟨hdp, hx1, hx2, fun hp hea => ?_, fun hp hout => ?_⟩
  · obtain ⟨hw, hb⟩ := husp hp
    rw [hw, hb, displaced_ok hea]
    exact ⟨rfl, rfl⟩
  · obtain ⟨hw, hb⟩ := husp hp
    rw [hw, hb, displaced_refused hout]
    exact ⟨rfl, rfl⟩

/-! The CPU registers at their data addresses. -/

/-- The parameter that gives the data address of a CPU register (spec/10_state.md R36). -/
def CpuReg.addr (c : Config) : CpuReg → Option Word
  | .ssp => c.addrSsp
  | .lrb => c.addrLrb
  | .psw => c.addrPsw
  | .acc => c.addrAcc

/-- The CPU registers. -/
def CpuReg.all : List CpuReg := [.ssp, .lrb, .psw, .acc]

theorem CpuReg.mem_all (r : CpuReg) : r ∈ CpuReg.all := by cases r <;> decide

theorem CpuReg.addr_of_mem {c : Config} {r : CpuReg} {a : Word}
    (h : (r, a) ∈ ([(.ssp, c.addrSsp), (.lrb, c.addrLrb), (.psw, c.addrPsw),
      (.acc, c.addrAcc)] : List (CpuReg × Option Word)).filterMap (fun x => x.2.map fun a => (x.1, a))) :
    r.addr c = some a := by
  simp only [List.mem_filterMap, List.mem_cons, List.not_mem_nil, or_false, Option.map_eq_some_iff] at h
  obtain ⟨x, hx, b, hb, hab⟩ := h
  cases hab
  obtain rfl | rfl | rfl | rfl := hx <;> exact hb

theorem legalConfig.addr_even {c : Config} (h : legalConfig c) {r : CpuReg} {a : Word} (ha : r.addr c = some a) :
    evenAddr a = a := by
  have hmem : some a ∈ [c.addrSsp, c.addrLrb, c.addrPsw, c.addrAcc] := by
    rw [← ha]; cases r <;> simp [CpuReg.addr]
  obtain ⟨-, heven⟩ := h.addr hmem
  apply BitVec.eq_of_toNat_eq
  rw [evenAddr_toNat]
  omega

/-- Admitted parameters put no two registers at one address (spec/10_state.md R36). -/
theorem legalConfig.addr_ne {c : Config} (h : legalConfig c) {q r : CpuReg} {a : Word} (hr : r.addr c = some a)
    (hne : q ≠ r) : q.addr c ≠ some a := by
  have hnodup : (CpuReg.all.filterMap (CpuReg.addr c)).Nodup := by
    have hlegal := h.2.1
    simp only [registerAddrsLegal, Bool.and_eq_true, decide_eq_true_eq] at hlegal
    exact hlegal.2
  have hsymm : Std.Symm fun x y : CpuReg => ∀ b, x.addr c = some b → ∀ b', y.addr c = some b' → b ≠ b' :=
    ⟨fun _ _ hxy b hb b' hb' => (hxy b' hb' b hb).symm⟩
  have hapart := (List.pairwise_filterMap.1 hnodup).forall q.mem_all r.mem_all hne
  exact fun hq => hapart a hq a hr rfl

/-- A CPU register is what data memory shows at its address (R36). -/
theorem legalConfig.regAt_addr {c : Config} (h : legalConfig c) {r : CpuReg} {a : Word} (ha : r.addr c = some a) :
    regAt c a = some r := by
  have hne (q : CpuReg) (hq : q ≠ r) : q.addr c ≠ some a := h.addr_ne ha hq
  unfold regAt
  rw [h.addr_even ha]
  cases r with
  | ssp => exact if_pos ha
  | lrb => exact (if_neg (hne .ssp nofun)).trans (if_pos ha)
  | psw => exact (if_neg (hne .ssp nofun)).trans ((if_neg (hne .lrb nofun)).trans (if_pos ha))
  | acc =>
    exact (if_neg (hne .ssp nofun)).trans ((if_neg (hne .lrb nofun)).trans
      ((if_neg (hne .psw nofun)).trans (if_pos ha)))

/-- A word location that shows a register holds what the register holds (R35). -/
theorem WLoc.mask_of_regAt {c : Config} {ea : Word} {r : CpuReg} (h : regAt c ea = some r) :
    (WLoc.mem ea).mask c = r.mask := by
  simp only [WLoc.mask, WLoc.isLrb, h]
  cases r <;> rfl

theorem CpuReg.and_mask (r : CpuReg) (v : Word) : v &&& r.mask = if r = .lrb then v &&& 0x1FFF#16 else v := by
  cases r with
  | lrb => rfl
  | _ => exact BitVec.and_allOnes

/-- A word write where data memory shows a register writes that register, and nothing else (R35, R36). -/
theorem writeWord_reg {s : State} {ea : Word} {r : CpuReg} (h : regAt s.cfg ea = some r) (v : Word) :
    ∃ t, writeWord s ea v = .ok t ∧ t.reg r = v &&& r.mask ∧
      Changes s t (Touch.all r) [evenAddr ea, evenAddr ea + 1] := by
  have hacc : (WLoc.mem ea).accessible s.cfg = true := WLoc.accessible_of_readW (readWord_reg h)
  obtain ⟨t, ht⟩ := writeW_total v hacc
  have hwrote := writeWord_wrote ht
  have hreg : regAt t.cfg ea = some r := by rw [hwrote.changes.cfg]; exact h
  refine ⟨t, ht, ?_, ?_⟩
  · rw [← WLoc.mask_of_regAt h]
    exact Except.ok.inj ((readWord_reg hreg).symm.trans hwrote.value)
  · have hchanges := hwrote.changes
    simp only [WLoc.touches, h] at hchanges
    exact hchanges

/-- Settles O12: the register is what is shown at its address, so the laws of such an address apply to both bytes. -/
theorem registersAtAddresses : Obligations.RegistersAtAddresses := by
  intro s r a v hlegal hmem
  have haddr := CpuReg.addr_of_mem hmem
  have heven := hlegal.addr_even haddr
  have hlo : regAt s.cfg a = some r := hlegal.regAt_addr haddr
  have hhi : regAt s.cfg (a + 1) = some r := by rw [← heven, regAt_succ, hlo]
  have bit_lo : a.getLsbD 0 = false := by rw [← heven, evenAddr_bit]
  have bit_hi : (a + 1).getLsbD 0 = true := by rw [← heven, evenAddr_succ_bit]
  refine ⟨readWord_reg hlo, readWord_reg hhi, ?_, ?_, ?_⟩
  · rw [readByte_reg hlo, bit_lo]; rfl
  · rw [readByte_reg hhi, bit_hi]; rfl
  · obtain ⟨t, ht, hval, hchanges⟩ := writeWord_reg hlo v
    rw [heven] at hchanges
    exact ⟨t, ht, hval.trans (r.and_mask v), hchanges⟩

end Sys2Proof.Machine
end

section
/-! Proofs about the refusal of an instruction that writes PSWH and also a flag in it (spec/10_state.md R34, R36). -/

namespace Sys2Proof.Machine

/-! The refusal of the shared writes. -/

@[simp] theorem finish_refuse (n : Nat) (r : Refusal) : finish n (refuse r) = .refused r := rfl

theorem writeFlagsW_refused {s : State} {l : WLoc} (v : Word) (f : State → State) (hp : l.holdsPswh s.cfg = true) :
    writeFlagsW s l v f = refuse .pswhFlagOrder := if_pos hp

theorem writeFlagsB_refused {s : State} {l : BLoc} (v : Byte) (f : State → State) (hp : l.holdsPswh s.cfg = true) :
    writeFlagsB s l v f = refuse .pswhFlagOrder := if_pos hp

/-- A word location that holds PSWH can be read. -/
theorem readW_of_holdsPswh {s : State} {l : WLoc} (hp : l.holdsPswh s.cfg = true) : ∃ v, readW s l = .ok v := by
  cases l with
  | mem ea => exact ⟨_, readWord_reg (beq_iff_eq.1 hp)⟩
  | ssp => cases hp
  | lrb => cases hp

/-- A byte location that holds PSWH can be read. -/
theorem readB_of_holdsPswh {s : State} {l : BLoc} (hp : l.holdsPswh s.cfg = true) : ∃ v, readB s l = .ok v := by
  cases l with
  | mem ea =>
    obtain ⟨hreg, -⟩ := Bool.and_eq_true_iff.1 hp
    exact ⟨_, readByte_reg (beq_iff_eq.1 hreg)⟩
  | pswh => exact ⟨_, rfl⟩
  | pswl => cases hp

/-! The refusal of the shared forms: the object is read, and its write is refused. -/

section WordObject
variable {s : State} {o : WObj} {l : WLoc} (hl : wordLoc s o = .ok l) (hp : l.holdsPswh s.cfg = true)
include hl hp

theorem shiftWord_refused (op : ShiftOp) : shiftWord op o s = .refused .pswhFlagOrder := by
  obtain ⟨v, hv⟩ := readW_of_holdsPswh hp
  unfold shiftWord
  simp only [hl, hv, Res.bind_ok, writeFlagsW_refused _ _ hp, finish_refuse]

theorem stepWord_refused (op : StepOp) (n : Nat) : stepWord op n o s = .refused .pswhFlagOrder := by
  obtain ⟨v, hv⟩ := readW_of_holdsPswh hp
  unfold stepWord
  simp only [hl, hv, Res.bind_ok, writeFlagsW_refused _ _ hp, finish_refuse]

theorem aluObjW_refused (op : AluOp) (hop : op.stores = true) {source : State → Res Word} {b : Word}
    (hb : source s = .ok b) (n : Nat) : finish n (aluObjW op o source s) = .refused .pswhFlagOrder := by
  obtain ⟨v, hv⟩ := readW_of_holdsPswh hp
  unfold aluObjW
  simp only [hl, hv, hb, hop, Res.bind_ok, if_true, writeFlagsW_refused _ _ hp, finish_refuse]

end WordObject

section ByteObject
variable {s : State} {o : BObj} {l : BLoc} (hl : byteLoc s o = .ok l) (hp : l.holdsPswh s.cfg = true)
include hl hp

theorem shiftByte_refused (op : ShiftOp) : shiftByte op o s = .refused .pswhFlagOrder := by
  obtain ⟨v, hv⟩ := readB_of_holdsPswh hp
  unfold shiftByte
  simp only [hl, hv, Res.bind_ok, writeFlagsB_refused _ _ hp, finish_refuse]

theorem stepByte_refused (op : StepOp) (n : Nat) : stepByte op n o s = .refused .pswhFlagOrder := by
  obtain ⟨v, hv⟩ := readB_of_holdsPswh hp
  unfold stepByte
  simp only [hl, hv, Res.bind_ok, writeFlagsB_refused _ _ hp, finish_refuse]

theorem aluObjB_refused (op : AluOp) (hop : op.stores = true) {source : State → Res Byte} {b : Byte}
    (hb : source s = .ok b) (n : Nat) : finish n (aluObjB op o source s) = .refused .pswhFlagOrder := by
  obtain ⟨v, hv⟩ := readB_of_holdsPswh hp
  unfold aluObjB
  simp only [hl, hv, hb, hop, Res.bind_ok, if_true, writeFlagsB_refused _ _ hp, finish_refuse]

end ByteObject

/-! The wide operations, whose results lie in local registers (spec/45_arithmetic.md R300 to R304). -/

theorem multiply_refused {s : State} {b : Word} (hb : loadW s (.er 0) = .ok b)
    (hp : (WLoc.mem (erAddr s 1)).holdsPswh s.cfg = true) : multiply s = refuse .pswhFlagOrder := by
  unfold multiply
  simp only [hb, wordLoc, Res.bind_ok, writeFlagsW_refused _ _ hp]

/-- er0 is written first, so PSW under er1 is met only after a write to er0 that goes through. -/
theorem quotient_refused {s : State} {x y : Word} (hx : (WLoc.mem x).accessible s.cfg = true)
    (hp : (WLoc.mem x).holdsPswh s.cfg = true ∨ (WLoc.mem y).holdsPswh s.cfg = true) (q1 q0 r : Word)
    (f : State → State) :
    (if (WLoc.mem x).holdsPswh s.cfg then refuse .pswhFlagOrder
      else writeW s (.mem x) q1 >>= fun t => writeFlagsW (t.setA q0) (.mem y) r f) = refuse .pswhFlagOrder := by
  cases hx0 : (WLoc.mem x).holdsPswh s.cfg with
  | true => rfl
  | false =>
    obtain ⟨t, ht⟩ := writeW_total q1 hx
    have hy : (WLoc.mem y).holdsPswh (t.setA q0).cfg = true := by
      rw [State.setA_cfg, (writeW_keeps ht).cfg]
      exact hp.resolve_left (by simp [hx0])
    simp only [ht, Res.bind_ok, writeFlagsW_refused _ _ hy, Bool.false_eq_true, if_false]

theorem divide_refused {s : State} {b d : Word} (hb : loadW s (.er 0) = .ok b) (hd : loadW s (.er 2) = .ok d)
    (hp : (WLoc.mem (erAddr s 0)).holdsPswh s.cfg = true ∨ (WLoc.mem (erAddr s 1)).holdsPswh s.cfg = true) :
    divide s = refuse .pswhFlagOrder := by
  have hacc : (WLoc.mem (erAddr s 0)).accessible s.cfg = true := WLoc.accessible_of_readW hb
  unfold divide
  simp only [hb, hd, wordLoc, Res.bind_ok]
  split
  · exact quotient_refused (s := s.draw.2.draw.2.draw.2) hacc hp _ _ _ _
  · exact quotient_refused hacc hp _ _ _ _

theorem divideB_refused {s : State} {c : Byte} (hc : loadB s (.r 0) = .ok c)
    (hp : (BLoc.mem (rAddr s 1)).holdsPswh s.cfg = true) : divideB s = refuse .pswhFlagOrder := by
  unfold divideB
  simp only [hc, byteLoc, Res.bind_ok]
  split
  · exact writeFlagsB_refused _ _ hp
  · exact writeFlagsB_refused _ _ hp

/-! The instructions. -/

/-- Settles O59: every form goes through writeFlagsW or writeFlagsB, at its object or at er0, er1 or r1. -/
theorem pswhRefusals : Obligations.PswhRefusals := by
  refine ⟨?_, ?_, ?_⟩
  · intro s o n d b l i hl hp
    have shift := shiftByte_refused hl hp
    have incDec := stepByte_refused hl hp
    have acc (op) (hop) := aluObjB_refused hl hp op hop (source := fun s => .ok s.al) rfl (o.prefixLen + 1)
    have imm (op) (hop) := aluObjB_refused hl hp op hop (source := fun _ => .ok n) rfl (o.prefixLen + 2)
    have off (op) (hop) (hb) := aluObjB_refused hl hp op hop (source := (loadB · (.off d))) (b := b) hb
      (o.prefixLen + 2)
    rintro (hi | ⟨r, rfl, hi⟩ | ⟨hb, hi⟩) <;> revert i <;>
      simp only [List.forall_mem_cons, List.not_mem_nil, false_imp_iff, implies_true, and_true]
    · exact ⟨shift .rol, shift .ror, shift .sll, shift .srl, shift .sra, incDec .inc _, incDec .dec _,
        acc .add rfl, acc .adc rfl, acc .sub rfl, acc .sbc rfl, acc .and rfl, acc .or rfl, acc .xor rfl,
        imm .add rfl, imm .adc rfl, imm .sub rfl, imm .sbc rfl⟩
    · exact ⟨incDec .inc 1, incDec .dec 1⟩
    · exact ⟨off .add rfl hb, off .adc rfl hb, off .sub rfl hb, off .sbc rfl hb, off .and rfl hb, off .or rfl hb,
        off .xor rfl hb⟩
  · intro s o n b d l i hl hp
    have shift := shiftWord_refused hl hp
    have incDec := stepWord_refused hl hp
    have acc (op) (hop) := aluObjW_refused hl hp op hop (source := fun s => .ok s.a) rfl (o.prefixLen + 1)
    have imm (op) (hop) := aluObjW_refused hl hp op hop (source := fun _ => .ok n) rfl (o.prefixLen + 3)
    have off (op) (hop) (hb) := aluObjW_refused hl hp op hop (source := (loadW · (.off d))) (b := b) hb
      (o.prefixLen + 2)
    rintro (hi | hi | ⟨hb, hi⟩)
    · revert i
      simp only [List.forall_mem_cons, List.not_mem_nil, false_imp_iff, implies_true, and_true]
      exact ⟨shift .rol, shift .ror, shift .sll, shift .srl, shift .sra, incDec .inc _, incDec .dec _,
        acc .add rfl, acc .adc rfl, acc .sub rfl, acc .sbc rfl, acc .and rfl, acc .or rfl, acc .xor rfl,
        imm .add rfl, imm .adc rfl, imm .sub rfl, imm .sbc rfl, imm .and rfl, imm .or rfl, imm .xor rfl⟩
    · simp only [List.mem_cons, Prod.mk.injEq, List.not_mem_nil, or_false] at hi
      obtain ⟨rfl, rfl⟩ | ⟨rfl, rfl⟩ | ⟨rfl, rfl⟩ | ⟨rfl, rfl⟩ | ⟨rfl, rfl⟩ | ⟨rfl, rfl⟩ := hi <;>
        exact incDec _ 1
    · revert i
      simp only [List.forall_mem_cons, List.not_mem_nil, false_imp_iff, implies_true, and_true]
      exact ⟨off .add rfl hb, off .adc rfl hb, off .sub rfl hb, off .sbc rfl hb, off .and rfl hb, off .or rfl hb,
        off .xor rfl hb⟩
  · exact fun s b d c => ⟨fun hb hp => congrArg (finish 2) (multiply_refused hb hp),
      fun hb hd hp => congrArg (finish 2) (divide_refused hb hd hp),
      fun hc hp => congrArg (finish 2) (divideB_refused hc hp)⟩

end Sys2Proof.Machine
end

section
/-! Proofs about a PC, a target and a program-memory address that leave 0000H..FFFFH (spec/10_state.md R23, R24,
spec/30_encoding.md R104, R122, spec/44_rom_table.md R270, spec/50_jump_call.md R410, R411). -/

namespace Sys2Proof.Machine

/-! The next PC. -/

/-- An operation that goes through and keeps PC ends refused where the next PC would pass FFFFH (R24). -/
theorem finish_pastEnd {n : Nat} {r : Res State} {s t : State} (h : r = .ok t) (hpc : t.pc = s.pc)
    (hl : 0xFFFF < s.pc.toNat + n) : finish n r = .refused .pcPastEnd := by
  subst h
  show outcome (advance n t) = _
  unfold advance
  rw [hpc, if_neg (by omega)]
  rfl

theorem PcFreeUpdate.pc {f : State → State} (hf : PcFreeUpdate f) (s : State) : (f s).pc = s.pc :=
  (PcFree.ok hf).pc rfl

theorem aluImmW_pastEnd {s : State} (hd : s.dd = true) (op : AluOp) (n : Word) (hl : 0xFFFF < s.pc.toNat + 3) :
    aluImmW op n s = .refused .pcPastEnd := by
  unfold aluImmW
  rw [if_pos hd]
  exact finish_pastEnd rfl ((pcFree_aluAccW op n).pc s) hl

theorem aluImmB_pastEnd {s : State} (hd : s.dd = false) (op : AluOp) (n : Byte) (hl : 0xFFFF < s.pc.toNat + 2) :
    aluImmB op n s = .refused .pcPastEnd := by
  unfold aluImmB
  rw [if_neg (by simp [hd])]
  exact finish_pastEnd rfl ((pcFree_aluAccB op n).pc s) hl

/-- INC LRB and DEC LRB always go through: LRB is no part of PSW. -/
theorem stepLrb_pastEnd {s : State} (op : StepOp) (hl : 0xFFFF < s.pc.toNat + 1) :
    stepWord op 1 .lrb s = .refused .pcPastEnd :=
  finish_pastEnd rfl (stepFlags_pc _ _ _ _ _) hl

/-- A form of a list is refused where every form of the list is. -/
theorem refused_of_mem {s : State} {l : List (Instr × Nat)} {i : Instr} {n : Nat} (hi : (i, n) ∈ l)
    (hl : 0xFFFF < s.pc.toNat + n)
    (h : ∀ x ∈ l, 0xFFFF < s.pc.toNat + x.2 → exec x.1 s = .refused .pcPastEnd) :
    exec i s = .refused .pcPastEnd := h (i, n) hi hl

/-- The forms whose operation always goes through, with DD as the code needs it. -/
theorem always_pastEnd (s : State) (i : Instr) (len : Nat) (n : Word) (d : Byte) (hl : 0xFFFF < s.pc.toNat + len)
    (hi : (i, len) ∈ [(Instr.nop, 1), (.sc, 1), (.rc, 1), (.clrA, 1), (.clrbA, 1), (.lImm n, 3), (.lbImm d, 2),
        (.movLrbImm n, 3), (.swap, 1), (.swapb, 1), (.rolA, 1), (.rolbA, 1), (.rorA, 1), (.rorbA, 1), (.sllA, 1),
        (.sllbA, 1), (.srlA, 1), (.srlbA, 1), (.sraA, 1), (.srabA, 1), (.daa, 1), (.das, 1), (.extnd, 1), (.incLrb, 1),
        (.decLrb, 1)] ∨
      (s.dd = true ∧ (i, len) ∈ [(.addAImm n, 3), (.adcAImm n, 3), (.subAImm n, 3), (.sbcAImm n, 3), (.cmpAImm n, 3),
        (.andAImm n, 3), (.orAImm n, 3), (.xorAImm n, 3)]) ∨
      (s.dd = false ∧ (i, len) ∈ [(.addbAImm d, 2), (.adcbAImm d, 2), (.subbAImm d, 2), (.sbcbAImm d, 2),
        (.cmpbAImm d, 2), (.andbAImm d, 2), (.orbAImm d, 2), (.xorbAImm d, 2)])) :
    exec i s = .refused .pcPastEnd := by
  have swap := finish_pastEnd (n := 1) rfl (pcFree_swapAcc.pc s)
  have shift (op) := finish_pastEnd (n := 1) rfl ((pcFree_shiftAcc op).pc s)
  obtain hi | ⟨hd, hi⟩ | ⟨hd, hi⟩ := hi <;> refine refused_of_mem hi hl ?_ <;>
    simp only [List.forall_mem_cons, List.not_mem_nil, false_imp_iff, implies_true, and_true]
  · exact ⟨finish_pastEnd rfl rfl, finish_pastEnd rfl rfl, finish_pastEnd rfl rfl, finish_pastEnd rfl rfl,
      finish_pastEnd rfl rfl, finish_pastEnd rfl rfl, finish_pastEnd rfl rfl, finish_pastEnd rfl rfl,
      swap, swap, shift .rol, shift .rol, shift .ror, shift .ror, shift .sll, shift .sll, shift .srl, shift .srl,
      shift .sra, shift .sra, finish_pastEnd rfl rfl, finish_pastEnd rfl rfl, finish_pastEnd rfl rfl,
      stepLrb_pastEnd .inc, stepLrb_pastEnd .dec⟩
  · exact ⟨aluImmW_pastEnd hd .add n, aluImmW_pastEnd hd .adc n, aluImmW_pastEnd hd .sub n, aluImmW_pastEnd hd .sbc n,
      aluImmW_pastEnd hd .cmp n, aluImmW_pastEnd hd .and n, aluImmW_pastEnd hd .or n, aluImmW_pastEnd hd .xor n⟩
  · exact ⟨aluImmB_pastEnd hd .add d, aluImmB_pastEnd hd .adc d, aluImmB_pastEnd hd .sub d, aluImmB_pastEnd hd .sbc d,
      aluImmB_pastEnd hd .cmp d, aluImmB_pastEnd hd .and d, aluImmB_pastEnd hd .or d, aluImmB_pastEnd hd .xor d⟩

/-! Jumps. -/

theorem returnAddress_refused {s : State} {n : Nat} (hl : 0xFFFF < s.pc.toNat + n) :
    returnAddress s n = refuse .pcPastEnd := if_neg (by omega)

/-- Whether the counter of JRNZ is 0 after the count is whether it was 1 (spec/50_jump_call.md R421). -/
theorem count_ne_zero (v : Byte) : (v - 1#8 != 0#8) = decide (v ≠ 1#8) := by
  rw [Bool.eq_iff_iff, bne_iff_ne, decide_eq_true_iff]
  exact sub_ne_zero

/-- A relative jump or SCAL is refused for the reason its target is. -/
theorem exec_of_branchTarget_refused {s : State} {rel : Byte} {i : Instr} {len : Nat} {taken : Bool} {r : Refusal}
    (hi : (i, len, taken) ∈ [(Instr.jcGt rel, 2, !s.flag .zf && !s.flag .cf), (.jcEq rel, 2, s.flag .zf),
          (.jcLt rel, 2, s.flag .cf), (.jcGe rel, 2, !s.flag .cf), (.jcNe rel, 2, !s.flag .zf),
          (.jcLe rel, 2, s.flag .zf || s.flag .cf)] ∨
        (∃ (d v : Byte) (n : BitVec 3), readByte s (pageAddr s d) = .ok v ∧
          (i, len, taken) ∈ [(Instr.jbs n d rel, 3, v.getLsbD n.toNat), (.jbr n d rel, 3, !v.getLsbD n.toNat)]) ∨
        (∃ v : Byte, readByte s (ptrAddr s .dp) = .ok v ∧ i = .jrnz rel ∧ len = 2 ∧ taken = decide (v ≠ 1#8)) ∨
        (i = .scal rel ∧ len = 2 ∧ taken = true))
    (h : branchTarget s len rel taken = refuse r) : exec i s = .refused r := by
  obtain hi | ⟨d, v, n, hv, hi⟩ | ⟨v, hv, rfl, rfl, rfl⟩ | ⟨rfl, rfl, rfl⟩ := hi
  · simp only [List.mem_cons, Prod.mk.injEq, List.not_mem_nil, or_false] at hi
    obtain ⟨rfl, rfl, rfl⟩ | ⟨rfl, rfl, rfl⟩ | ⟨rfl, rfl, rfl⟩ | ⟨rfl, rfl, rfl⟩ | ⟨rfl, rfl, rfl⟩ | ⟨rfl, rfl, rfl⟩ :=
      hi <;> exact congrArg (jump s) h
  · have hload : loadB s (.off d) = .ok v := hv
    simp only [List.mem_cons, Prod.mk.injEq, List.not_mem_nil, or_false] at hi
    obtain ⟨rfl, rfl, rfl⟩ | ⟨rfl, rfl, rfl⟩ := hi
    · show jump s (loadB s (.off d) >>= _) = _
      rw [hload, Res.bind_ok, h]; rfl
    · show jump s (loadB s (.off d) >>= _) = _
      rw [hload, Res.bind_ok, h]; rfl
  · show loopJump rel s = _
    unfold loopJump
    rw [hv, Res.bind_ok, count_ne_zero, h]; rfl
  · show call 2 (branchTarget s 2 rel true) s = _
    rw [h]; rfl

/-! Calls. -/

theorem call_pastEnd {s : State} {n : Nat} {target : Res Word} {t : Word} (ht : target = .ok t)
    (hl : 0xFFFF < s.pc.toNat + n) : call n target s = .refused .pcPastEnd := by
  unfold call
  rw [ht, Res.bind_ok, returnAddress_refused hl]; rfl

theorem vcalEntry_toNat : ∀ n : BitVec 3, (vcalEntry n).toNat = 0x28 + 2 * n.toNat := by decide

theorem romWord_vcalEntry {s : State} {n : BitVec 3} {lo hi : Byte} (hlo : s.rom.cell (0x28 + 2 * n.toNat) = some lo)
    (hhi : s.rom.cell (0x29 + 2 * n.toNat) = some hi) : romWord s (vcalEntry n) = .ok (mkWord hi lo) := by
  have hn := n.isLt
  have hentry := vcalEntry_toNat n
  refine romWord_ok (by omega) (by rw [hentry]; exact hlo) ?_
  rw [show (vcalEntry n).toNat + 1 = 0x29 + 2 * n.toNat by omega]
  exact hhi

/-! Fetch. -/

/-- A step whose instruction bytes run past FFFFH is refused (R24). -/
theorem step_of_incomplete {s : State} (hdue : s.due = none) (hf : fetch s = .incomplete)
    (hl : 0xFFFF < s.pc.toNat + (fetchBytes s.rom s.pc.toNat 6).length) : step s = .refused .pcPastEnd := by
  rw [step_of_none_due hdue]
  unfold runInstruction
  rw [fetch_passBoundary, hf]
  unfold missingByte
  exact congrArg outcome (if_neg (Nat.not_le.2 hl))

/-! Program-memory addresses. -/

theorem basedAddr_refused {s : State} {n p : Word} {o : WObj} (hp : loadW s o = .ok p)
    (hl : 0xFFFF < n.toNat + p.toNat) : basedAddr s n o = refuse .romSumOutOfRange := by
  unfold basedAddr
  rw [hp, Res.bind_ok, if_neg (by omega)]

theorem basedAddr_ok {s : State} {n p : Word} {o : WObj} (hp : loadW s o = .ok p)
    (hl : n.toNat + p.toNat ≤ 0xFFFF) : basedAddr s n o = .ok (n + p) := by
  unfold basedAddr
  rw [hp, Res.bind_ok, if_pos hl]

theorem exec_based_refused {s : State} {o : WObj} {n p : Word} (hp : loadW s o = .ok p)
    (hl : 0xFFFF < n.toNat + p.toNat) :
    ∀ i ∈ [Instr.lcBased o n, .lcbBased o n, .cmpcBased o n, .cmpcbBased o n],
      exec i s = .refused .romSumOutOfRange := by
  have based (k : Nat) (f : Word → Res State) : finish k (basedAddr s n o >>= f) = .refused .romSumOutOfRange := by
    rw [basedAddr_refused hp hl]; rfl
  simp only [List.forall_mem_cons, List.not_mem_nil, false_imp_iff, implies_true, and_true]
  exact ⟨based _ _, based _ _, based _ _, based _ _⟩

/-- A word read of program memory at FFFFH is refused, however the instruction gives its address (R72). -/
theorem exec_lastWord_refused {s : State} {o : WObj} {n p : Word} {i : Instr}
    (hi : i ∈ [Instr.lcDirect 0xFFFF#16, .cmpcDirect 0xFFFF#16] ∨
      (loadW s o = .ok 0xFFFF#16 ∧ i ∈ [Instr.lcInd o, .cmpcInd o]) ∨
      (loadW s o = .ok p ∧ n.toNat + p.toNat = 0xFFFF ∧ i ∈ [Instr.lcBased o n, .cmpcBased o n])) :
    exec i s = .refused .romWordPastEnd := by
  have read {ra : Res Word} (h : ra = .ok 0xFFFF#16) (k : Nat) :
      finish k (ra >>= romLoadW s) = .refused .romWordPastEnd ∧
      finish k (ra >>= romCompareW s) = .refused .romWordPastEnd := by
    rw [h]; exact ⟨rfl, rfl⟩
  obtain hi | ⟨hp, hi⟩ | ⟨hp, hsum, hi⟩ := hi <;> revert i <;>
    simp only [List.forall_mem_cons, List.not_mem_nil, false_imp_iff, implies_true, and_true]
  · exact ⟨rfl, rfl⟩
  · exact read hp (o.prefixLen + 1)
  · have hlast : n + p = 0xFFFF#16 := BitVec.eq_of_toNat_eq (by rw [BitVec.toNat_add, hsum]; rfl)
    exact read ((basedAddr_ok hp hsum.le).trans (congrArg _ hlast)) (o.prefixLen + 3)

end Sys2Proof.Machine
end

section
/-! Proofs about an instruction that completes at one PC, at another PC from which its next PC would pass FFFFH
(spec/10_state.md R23, R24). -/

namespace Sys2Proof.Machine

/-! The operations of single instructions. -/

/-- A pop and then an update with the word popped. -/
theorem PcFree.pop {f : Word → State → State} (hf : ∀ v, PcFreeUpdate (f v)) :
    PcFree fun s => pop16 s >>= fun x => .ok (f x.1 x.2) := fun s p => by
  show pop16 (s.setPc p) >>= _ = (pop16 s >>= _).map _
  rw [pop16_setPc]
  cases pop16 s with
  | error e => rfl
  | ok x => exact congrArg Except.ok (hf x.1 x.2 p)

theorem pastEnd_popsA : PastEnd 1 execPopsA :=
  PcFree.finish (.pop (f := fun v t => (t.setA v).setDd true) fun _ _ _ => rfl) 1

theorem pastEnd_popsLrb : PastEnd 1 execPopsLrb :=
  PcFree.finish (.pop (f := fun v t => t.setLrb v) fun _ _ _ => rfl) 1

theorem pcFree_exchangeW (o : WObj) :
    PcFree fun s => wordLoc s o >>= fun l => readW s l >>= fun v => writeW s l s.a >>= fun t => .ok (t.setA v) :=
  .read (wordLoc_setPc o) fun l => .read (readW_setPc · · l) fun v => fun s p =>
    (pcFree_writeW l s.a).andThen (k := fun _ t => .ok (t.setA v)) (fun _ _ _ => rfl) s p

theorem pcFree_exchangeB (o : BObj) :
    PcFree fun s => byteLoc s o >>= fun l => readB s l >>= fun v => writeB s l s.al >>= fun t => .ok (t.setAl v) :=
  .read (byteLoc_setPc o) fun l => .read (readB_setPc · · l) fun v => fun s p =>
    (pcFree_writeB l s.al).andThen (k := fun _ t => .ok (t.setAl v)) (fun _ _ _ => rfl) s p

theorem pastEnd_xnblAOff (n : Byte) : PastEnd 2 (execXnblAOff n) :=
  PcFree.finish (.read (loadB_setPc (.off n)) fun v => fun s p =>
    (pcFree_storeB (.off n) (v &&& 0xF0#8 ||| s.al &&& 0x0F#8)).andThen
      (k := fun _ t => .ok (t.setA (t.a &&& 0xFFF0#16 ||| v.setWidth 16 &&& 0x000F#16))) (fun _ _ _ => rfl) s p) 2

theorem pastEnd_stbR (r : BitVec 3) : PastEnd 1 (execStbR r) :=
  PcFree.finish
    (f := fun s => if s.dd then wordRegister r >>= fun e => storeW s (.er e) s.a else storeB s (.r r) s.al)
    (.ite (fun _ _ => rfl)
      (.read (g := fun _ => wordRegister r) (fun _ _ => rfl) fun e => fun s p => pcFree_storeW (.er e) s.a s p)
      fun s p => pcFree_storeB (.r r) s.al s p) 1

theorem pastEnd_storeW (n : Nat) (o : WObj) (v : State → Word) (hv : ∀ s p, v (s.setPc p) = v s) :
    PastEnd n fun s => finish n (storeW s o (v s)) :=
  PcFree.finish (f := fun s => storeW s o (v s)) (fun s p => by
    dsimp only
    rw [hv]
    exact pcFree_storeW o (v s) s p) n

theorem pastEnd_storeB (n : Nat) (o : BObj) (v : State → Byte) (hv : ∀ s p, v (s.setPc p) = v s) :
    PastEnd n fun s => finish n (storeB s o (v s)) :=
  PcFree.finish (f := fun s => storeB s o (v s)) (fun s p => by
    dsimp only
    rw [hv]
    exact pcFree_storeB o (v s) s p) n

theorem pastEnd_update (n : Nat) {f : State → State} (hf : PcFreeUpdate f) :
    PastEnd n fun s => finish n (.ok (f s)) := PcFree.finish (.ok hf) n

theorem pcFree_multiplyB : PcFree multiplyB := .read (loadB_setPc (.r 0)) fun _ => .ok fun _ _ => rfl

theorem pcFree_testBit (o : BObj) (n : BitVec 3) : PcFree (testBit o n) :=
  .read (loadB_setPc o) fun _ => .ok fun _ _ => rfl

theorem pcFree_bitToCarry (o : BObj) (n : BitVec 3) : PcFree (bitToCarry o n) :=
  .read (loadB_setPc o) fun _ => .ok fun _ _ => rfl

/-- An operation on the bit that A selects. -/
theorem PcFree.atBitIndex {f : BitVec 3 → State → Res State} (hf : ∀ n, PcFree (f n)) :
    PcFree fun s => f s.bitIndex s := fun s p => hf s.bitIndex s p

/-! The instructions. -/

/-- An instruction that completes at some PC, with DD as its code needs it, is refused where its next PC would pass
FFFFH. -/
def RefusedPastEnd (i : Instr) : Prop :=
  ∀ (s : State) (bs : List Byte) (p : Word) (t : State), (∀ b, i.ddSelect = some b → s.dd = b) →
    encode s.cfg.opcodes i = some bs → exec i (s.setPc p) = .next t → 0xFFFF < s.pc.toNat + bs.length →
    exec i s = .refused .pcPastEnd

theorem RefusedPastEnd.ofLength {i : Instr} {n : Nat}
    (hlen : ∀ (ops : Opcodes) (bs : List Byte), encode ops i = some bs → bs.length = n) (h : PastEnd n (exec i)) :
    RefusedPastEnd i := fun s bs p t _ he hx hl => h s p t hx (by rw [← hlen _ bs he]; exact hl)

/-- An instruction whose code is a fixed list of bytes. -/
theorem RefusedPastEnd.plain {i : Instr} {bs : List Byte} (he : ∀ ops : Opcodes, encode ops i = some bs)
    (h : PastEnd bs.length (exec i)) : RefusedPastEnd i :=
  .ofLength (fun ops _ hb => by rw [he ops] at hb; cases hb; rfl) h

/-- An instruction whose code is one byte, which its parameter gives (spec/00_scope.md R9). -/
theorem RefusedPastEnd.code {i : Instr} {c : Opcodes → Option Byte}
    (he : ∀ ops : Opcodes, encode ops i = (c ops).map fun b => [b]) (h : PastEnd 1 (exec i)) : RefusedPastEnd i :=
  .ofLength (fun ops _ hb => length_of_code (xs := []) (he ops ▸ hb)) h

/-- An instruction on a word object: the bytes of the object and then `xs` (spec/30_encoding.md R124). -/
theorem RefusedPastEnd.word {i : Instr} {o : WObj} {xs : List Byte}
    (he : ∀ ops : Opcodes, encode ops i = some (o.prefixBytes ++ xs)) (h : PastEnd (o.prefixLen + xs.length) (exec i)) :
    RefusedPastEnd i :=
  .ofLength (fun ops _ hb => by
    rw [he ops] at hb
    cases hb
    rw [List.length_append, WObj.prefixBytes_length]) h

/-- An instruction on a byte object: the bytes of the object and then `xs` (R124). -/
theorem RefusedPastEnd.byte {i : Instr} {o : BObj} {xs : List Byte}
    (he : ∀ ops : Opcodes, encode ops i = some (o.prefixBytes ++ xs)) (h : PastEnd (o.prefixLen + xs.length) (exec i)) :
    RefusedPastEnd i :=
  .ofLength (fun ops _ hb => by
    rw [he ops] at hb
    cases hb
    rw [List.length_append, BObj.prefixBytes_length]) h

/-- An instruction whose code DD selects and whose operation then always goes through. -/
theorem RefusedPastEnd.selected {i : Instr} {bs : List Byte} {b : Bool}
    (he : ∀ ops : Opcodes, encode ops i = some bs) (hdd : i.ddSelect = some b)
    (h : ∀ s : State, s.dd = b → 0xFFFF < s.pc.toNat + bs.length → exec i s = .refused .pcPastEnd) :
    RefusedPastEnd i := fun s _ _ _ hs hb _ hl => by
  rw [he] at hb
  cases hb
  exact h s (hs b hdd) hl

/-- Every instruction that transfers no control either leaves PC to `finish`, or is one that always goes through. -/
theorem refusedPastEnd {i : Instr} (ht : i.transfers = false) : RefusedPastEnd i := by
  cases i with
  -- Data transfer
  | lImm _ | lbImm _ | clrA | clrbA => exact .plain (fun _ => rfl) (pastEnd_update _ fun _ _ => rfl)
  | lEr _ | lX1Ind _ | lX2Ind _ | lUspInd _ | lOff _ | lZp _ | lX1 | lX2 | lDp | lDpInd =>
    exact .plain (fun _ => rfl) (pastEnd_loadWord _ _)
  | lbR _ | lbX1Ind _ | lbX2Ind _ | lbUspInd _ | lbOff _ | lbZp _ | lbDpInd =>
    exact .plain (fun _ => rfl) (pastEnd_loadByte _ _)
  | stEr _ | stX1Ind _ | stbX1Ind _ | stX2Ind _ | stbX2Ind _ | stUspInd _ | stbUspInd _ | stOff _ | stbOff _ | stZp _
  | stbZp _ | stDpInd | stbDpInd => exact .plain (fun _ => rfl) (pastEnd_storeAcc _ _ _)
  | stbR r => exact .plain (fun _ => rfl) (pastEnd_stbR r)
  | movX1Imm n | movX2Imm n | movDpImm n | movLrbImm n =>
    exact .plain (fun _ => rfl) (pastEnd_storeW _ _ (fun _ => n) fun _ _ => rfl)
  | movX1A | movX2A | movDpA => exact .plain (fun _ => rfl) (pastEnd_storeW _ _ State.a fun _ _ => rfl)
  | movObjA o => exact .word (fun _ => rfl) (pastEnd_storeW _ o State.a fun _ _ => rfl)
  | movObjImm o n =>
    exact .word (fun _ => congrArg some (List.append_assoc _ _ _)) (pastEnd_storeW _ o (fun _ => n) fun _ _ => rfl)
  | clrObj o => exact .word (fun _ => rfl) (pastEnd_storeW _ o (fun _ => 0#16) fun _ _ => rfl)
  | movX1Obj o | movX2Obj o | movDpObj o | movUspObj o | movSspObj o | movLrbObj o | movErObj _ o | movOffObj _ o =>
    exact .word (fun _ => rfl) (pastEnd_moveWord _ o _)
  | movAObj o => exact .word (fun _ => rfl) (PcFree.finish (.read (loadW_setPc o) fun _ => .ok fun _ _ => rfl) _)
  | movPswObj o =>
    exact .word (fun _ => rfl) (PcFree.finish (.read (loadW_setPc o) fun v => .ok (pcFree_setReg .psw v)) _)
  | movbAObj o => exact .byte (fun _ => rfl) (PcFree.finish (.read (loadB_setPc o) fun _ => .ok fun _ _ => rfl) _)
  | movbObjA o => exact .byte (fun _ => rfl) (pastEnd_storeB _ o State.al fun _ _ => rfl)
  | movbRImm _ n => exact .plain (fun _ => rfl) (pastEnd_storeB _ _ (fun _ => n) fun _ _ => rfl)
  | movbObjImm o n => exact .byte (fun _ => rfl) (pastEnd_storeB _ o (fun _ => n) fun _ _ => rfl)
  | clrbObj o => exact .byte (fun _ => rfl) (pastEnd_storeB _ o (fun _ => 0#8) fun _ _ => rfl)
  | movbRObj _ o | movbOffObj _ o | movbPswhObj o | movbPswlObj o =>
    exact .byte (fun _ => rfl) (pastEnd_moveByte _ o _)
  | swap | swapb => exact .plain (fun _ => rfl) (pastEnd_update _ pcFree_swapAcc)
  | xchgAObj o => exact .word (fun _ => rfl) (.iteDd (PcFree.finish (pcFree_exchangeW o) _) (.refused _ _))
  | xchgbAObj o => exact .byte (fun _ => rfl) (.iteDd (.refused _ _) (PcFree.finish (pcFree_exchangeB o) _))
  | xnblAOff n => exact .plain (fun _ => rfl) (pastEnd_xnblAOff n)
  -- Stack
  | pushsA => exact .code (fun _ => rfl) (PcFree.finish (fun s p => pcFree_push16 s.a s p) 1)
  | pushsLrb => exact .plain (fun _ => rfl) (PcFree.finish (fun s p => pcFree_push16 s.lrbWord s p) _)
  | popsA => exact .code (fun _ => rfl) pastEnd_popsA
  | popsLrb => exact .code (fun _ => rfl) pastEnd_popsLrb
  -- Rotates and shifts
  | rolA | rolbA | srlA | srlbA => exact .code (fun _ => rfl) (pastEnd_update 1 (pcFree_shiftAcc _))
  | rorA | rorbA | sllA | sllbA | sraA | srabA => exact .plain (fun _ => rfl) (pastEnd_update _ (pcFree_shiftAcc _))
  | rolObj o | rorObj o | sllObj o | srlObj o | sraObj o => exact .word (fun _ => rfl) (pastEnd_shiftWord _ o)
  | rolbObj o | rorbObj o | sllbObj o | srlbObj o | srabObj o => exact .byte (fun _ => rfl) (pastEnd_shiftByte _ o)
  -- Increments and decrements
  | incX1 | incX2 | incDp | decX1 | decX2 | decDp => exact .plain (fun _ => rfl) (pastEnd_stepWord _ _ _)
  | incLrb | decLrb => exact .code (fun _ => rfl) (pastEnd_stepWord _ 1 _)
  | incObj o | decObj o => exact .word (fun _ => rfl) (pastEnd_stepWord _ _ o)
  | incbR _ | decbR _ => exact .plain (fun _ => rfl) (pastEnd_stepByte _ _ _)
  | incbObj o | decbObj o => exact .byte (fun _ => rfl) (pastEnd_stepByte _ _ o)
  -- ROM table reference
  | lcDirect n => exact .plain (fun _ => rfl) (PcFree.finish (pcFree_romLoadW n) _)
  | lcInd o => exact .word (fun _ => rfl) (PcFree.finish (.read (loadW_setPc o) pcFree_romLoadW) _)
  | lcBased o n =>
    exact .word (fun _ => congrArg some (List.append_assoc _ _ _))
      (PcFree.finish (.read (basedAddr_setPc n o) pcFree_romLoadW) _)
  | lcbDirect n => exact .plain (fun _ => rfl) (PcFree.finish (pcFree_romLoadB n) _)
  | lcbInd o => exact .word (fun _ => rfl) (PcFree.finish (.read (loadW_setPc o) pcFree_romLoadB) _)
  | lcbBased o n =>
    exact .word (fun _ => congrArg some (List.append_assoc _ _ _))
      (PcFree.finish (.read (basedAddr_setPc n o) pcFree_romLoadB) _)
  | cmpcDirect n => exact .plain (fun _ => rfl) (PcFree.finish (pcFree_romCompareW n) _)
  | cmpcInd o => exact .word (fun _ => rfl) (PcFree.finish (.read (loadW_setPc o) pcFree_romCompareW) _)
  | cmpcBased o n =>
    exact .word (fun _ => congrArg some (List.append_assoc _ _ _))
      (PcFree.finish (.read (basedAddr_setPc n o) pcFree_romCompareW) _)
  | cmpcbDirect n => exact .plain (fun _ => rfl) (PcFree.finish (pcFree_romCompareB n) _)
  | cmpcbInd o => exact .word (fun _ => rfl) (PcFree.finish (.read (loadW_setPc o) pcFree_romCompareB) _)
  | cmpcbBased o n =>
    exact .word (fun _ => congrArg some (List.append_assoc _ _ _))
      (PcFree.finish (.read (basedAddr_setPc n o) pcFree_romCompareB) _)
  -- The ALU families
  | addAImm n | adcAImm n | subAImm n | sbcAImm n | cmpAImm n | andAImm n | orAImm n | xorAImm n =>
    exact .selected (fun _ => rfl) rfl fun _ hd => aluImmW_pastEnd hd _ n
  | addbAImm n | adcbAImm n | subbAImm n | sbcbAImm n | cmpbAImm n | andbAImm n | orbAImm n | xorbAImm n =>
    exact .selected (fun _ => rfl) rfl fun _ hd => aluImmB_pastEnd hd _ n
  | addAEr _ | adcAEr _ | subAEr _ | sbcAEr _ | cmpAEr _ | andAEr _ | orAEr _
  | addbAR _ | adcbAR _ | subbAR _ | sbcbAR _ | cmpbAR _ | andbAR _ | orbAR _ =>
    exact .plain (fun _ => rfl) (pastEnd_aluReg _ _)
  | addAOff n | adcAOff n | subAOff n | sbcAOff n | cmpAOff n | andAOff n | orAOff n | xorAOff n
  | addbAOff n | adcbAOff n | subbAOff n | sbcbAOff n | cmpbAOff n | andbAOff n | orbAOff n | xorbAOff n =>
    exact .plain (fun _ => rfl) (pastEnd_aluOff _ n)
  | addAObj o | adcAObj o | subAObj o | sbcAObj o | cmpAObj o | andAObj o | orAObj o | xorAObj o =>
    exact .word (fun _ => rfl) (pastEnd_aluAObjW _ o)
  | addbAObj o | adcbAObj o | subbAObj o | sbcbAObj o | cmpbAObj o | andbAObj o | orbAObj o | xorbAObj o =>
    exact .byte (fun _ => rfl) (pastEnd_aluAObjB _ o)
  | addObjA o | adcObjA o | subObjA o | sbcObjA o | cmpObjA o | andObjA o | orObjA o | xorObjA o =>
    exact .word (fun _ => rfl) (PcFree.finish (pcFree_aluObjW _ o fun _ _ => rfl) _)
  | addbObjA o | adcbObjA o | subbObjA o | sbcbObjA o | cmpbObjA o | andbObjA o | orbObjA o | xorbObjA o =>
    exact .byte (fun _ => rfl) (PcFree.finish (pcFree_aluObjB _ o fun _ _ => rfl) _)
  | addObjOff o n | adcObjOff o n | subObjOff o n | sbcObjOff o n | cmpObjOff o n | andObjOff o n | orObjOff o n
  | xorObjOff o n => exact .word (fun _ => rfl) (PcFree.finish (pcFree_aluObjW _ o (loadW_setPc (.off n))) _)
  | addbObjOff o n | adcbObjOff o n | subbObjOff o n | sbcbObjOff o n | cmpbObjOff o n | andbObjOff o n | orbObjOff o n
  | xorbObjOff o n => exact .byte (fun _ => rfl) (PcFree.finish (pcFree_aluObjB _ o (loadB_setPc (.off n))) _)
  | addObjImm o _ | adcObjImm o _ | subObjImm o _ | sbcObjImm o _ | cmpObjImm o _ | andObjImm o _ | orObjImm o _
  | xorObjImm o _ =>
    exact .word (fun _ => congrArg some (List.append_assoc _ _ _))
      (PcFree.finish (pcFree_aluObjW _ o fun _ _ => rfl) _)
  | addbObjImm o _ | adcbObjImm o _ | subbObjImm o _ | sbcbObjImm o _ | cmpbObjImm o _ =>
    exact .byte (fun _ => rfl) (PcFree.finish (pcFree_aluObjB _ o fun _ _ => rfl) _)
  | andbObjImm o n | orbObjImm o n | xorbObjImm o n =>
    exact .byte (fun _ => rfl) (PcFree.finish (pcFree_logicImmB _ o n) _)
  | mul => exact .plain (fun _ => rfl) (PcFree.finish pcFree_multiply _)
  | mulb => exact .plain (fun _ => rfl) (PcFree.finish pcFree_multiplyB _)
  | div => exact .plain (fun _ => rfl) (PcFree.finish pcFree_divide _)
  | divb => exact .plain (fun _ => rfl) (PcFree.finish pcFree_divideB _)
  -- Bit operations
  | sbBit o n | rbBit o n => exact .byte (fun _ => rfl) (PcFree.finish (pcFree_putTestedBit o n _) _)
  | mbCBit o n => exact .byte (fun _ => rfl) (PcFree.finish (pcFree_bitToCarry o n) _)
  | mbBitC o n => exact .byte (fun _ => rfl) (PcFree.finish (pcFree_carryToBit o n) _)
  | sbrObj o | rbrObj o =>
    exact .byte (fun _ => rfl) (PcFree.finish (.atBitIndex fun n => pcFree_putTestedBit o n _) _)
  | tbrObj o => exact .byte (fun _ => rfl) (PcFree.finish (.atBitIndex (pcFree_testBit o)) _)
  | mbrCObj o => exact .byte (fun _ => rfl) (PcFree.finish (.atBitIndex (pcFree_bitToCarry o)) _)
  | mbrObjC o => exact .byte (fun _ => rfl) (PcFree.finish (.atBitIndex (pcFree_carryToBit o)) _)
  -- Decimal adjust, sign extension, and the rest
  | daa | das | extnd | sc | rc | nop => exact .plain (fun _ => rfl) (pastEnd_update _ fun _ _ => rfl)
  -- What transfers control or is no instruction
  | _ => cases ht

/-- Settles O43: each clause is the law of the operation that meets the end of program memory. -/
theorem addressRefusals : Obligations.AddressRefusals := by
  refine fun s => ⟨fun i len n d hl hi => always_pastEnd s i len n d hl hi,
    fun i bs p t ht hdd he hx hl => refusedPastEnd ht s bs p t hdd he hx hl, ?_, ?_,
    fun hdue hf hl => step_of_incomplete hdue hf hl, fun o n p i hp hl hi => exec_based_refused hp hl i hi,
    fun o n p i hi => exec_lastWord_refused hi⟩
  · intro rel i len taken hi
    refine ⟨fun htaken hl => exec_of_branchTarget_refused hi ?_, fun htaken hout => exec_of_branchTarget_refused hi ?_⟩
    · rw [htaken]; exact returnAddress_refused hl
    · rw [htaken]; exact relTarget_refused hout
  · rintro tgt i len hl
      (⟨rel, rfl, rfl, htgt⟩ | ⟨rfl, rfl⟩ | ⟨o, rfl, rfl, hload⟩ | ⟨n, lo, hi, rfl, rfl, hlo, hhi, rfl⟩)
    · exact call_pastEnd (relTarget_ok htgt) hl
    · exact call_pastEnd rfl hl
    · exact call_pastEnd hload hl
    · exact call_pastEnd (romWord_vcalEntry hlo hhi) hl

end Sys2Proof.Machine
end

section
/-! Proofs about what every step keeps: the parameters, program memory and the form of data memory
(spec/20_memory.md R60, R61, R71, R85). -/

namespace Sys2Proof.Machine

/-! Results and outcomes that keep what the state before them has. -/

/-- Where a result goes on, the state it goes on with keeps what `s` has. -/
def OkKeeps (s : State) (r : Res State) : Prop := ∀ t, r = .ok t → Keeps s t

/-- Where an outcome has a next state, that state keeps what `s` has. -/
def NextKeeps (s : State) (o : Host.Outcome State Fault Refusal) : Prop := ∀ t, o = .next t → Keeps s t

section Rules
variable {s : State}

theorem OkKeeps.ok {t : State} (h : Keeps s t) : OkKeeps s (.ok t) := fun _ ht => Except.ok.inj ht ▸ h

theorem OkKeeps.refuse (r : Refusal) : OkKeeps s (refuse r) := fun _ h => nomatch h

/-- A read and then an operation on what it gave. -/
theorem OkKeeps.read {α : Type} {x : Res α} {k : α → Res State} (h : ∀ a, OkKeeps s (k a)) : OkKeeps s (x >>= k) :=
  fun t ht => by
  obtain ⟨a, -, hk⟩ := Res.bind_eq_ok ht
  exact h a t hk

/-- An operation and then another on the state it left. -/
theorem OkKeeps.andThen {r : Res State} {k : State → Res State} (hr : OkKeeps s r) (hk : ∀ t, OkKeeps t (k t)) :
    OkKeeps s (r >>= k) := fun u hu => by
  obtain ⟨t, ht, hku⟩ := Res.bind_eq_ok hu
  exact (hr t ht).trans (hk t u hku)

/-- A pop and then an operation on the word popped and the state left. -/
theorem OkKeeps.pop {k : Word × State → Res State} (hk : ∀ v t, OkKeeps t (k (v, t))) :
    OkKeeps s (pop16 s >>= k) := fun u hu => by
  obtain ⟨⟨v, t⟩, ht, hku⟩ := Res.bind_eq_ok hu
  exact (pop16_keeps ht).trans (hk v t u hku)

/-- An operation after an update. -/
theorem OkKeeps.after {t : State} {r : Res State} (h : Keeps s t) (hr : OkKeeps t r) : OkKeeps s r :=
  fun u hu => h.trans (hr u hu)

theorem OkKeeps.ite {c : Prop} [Decidable c] {r q : Res State} (hr : OkKeeps s r) (hq : OkKeeps s q) :
    OkKeeps s (if c then r else q) := by
  split
  · exact hr
  · exact hq

theorem OkKeeps.finish {n : Nat} {r : Res State} (h : OkKeeps s r) : NextKeeps s (finish n r) :=
  fun _ ht => finish_keeps h ht

theorem OkKeeps.outcome {r : Res State} (h : OkKeeps s r) : NextKeeps s (outcome r) :=
  fun _ ht => outcome_keeps h ht

theorem NextKeeps.refused (r : Refusal) : NextKeeps s (outcome (refuse r)) := fun _ h => nomatch h

theorem NextKeeps.ite {c : Prop} [Decidable c] {m k : Host.Outcome State Fault Refusal} (hm : NextKeeps s m)
    (hk : NextKeeps s k) : NextKeeps s (if c then m else k) := by
  split
  · exact hm
  · exact hk

end Rules

/-! The updates. -/

theorem Keeps.cond {s t u : State} (b : Bool) (ht : Keeps s t) (hu : Keeps s u) : Keeps s (bif b then t else u) := by
  cases b
  · exact hu
  · exact ht

theorem keeps_loadA (s : State) (v : Word) : Keeps s (s.loadA v) := .ofRam rfl rfl rfl rfl

theorem keeps_loadAl (s : State) (v : Byte) : Keeps s (s.loadAl v) := .ofRam rfl rfl rfl rfl

theorem keeps_aluAccW (s : State) (op : AluOp) (b : Word) : Keeps s (s.aluAccW op b) :=
  (Keeps.cond op.stores (keeps_setA s _) (.refl s)).trans (keeps_aluFlagsW _ _)

theorem keeps_aluAccB (s : State) (op : AluOp) (b : Byte) : Keeps s (s.aluAccB op b) :=
  (Keeps.cond op.stores (keeps_setAl s _) (.refl s)).trans (keeps_aluFlagsB _ _)

theorem keeps_swapAcc (s : State) : Keeps s (swapAcc s) := by
  unfold swapAcc
  split
  · exact keeps_setA s _
  · exact keeps_setAl s _

theorem keeps_shiftAcc (op : ShiftOp) (s : State) : Keeps s (shiftAcc op s) := by
  unfold shiftAcc
  split
  · exact (keeps_setA s _).trans (keeps_setFlag _ _ _)
  · exact (keeps_setAl s _).trans (keeps_setFlag _ _ _)

theorem keeps_stepSecond {w : Nat} (s : State) (op : StepOp) (v : BitVec w) : Keeps s (s.stepSecond op v) := by
  unfold State.stepSecond
  split <;> exact keeps_setFlag s _ _

theorem keeps_stepFlags {w : Nat} (s : State) (op : StepOp) (b : Bool) (v r : BitVec w) :
    Keeps s (s.stepFlags op b v r) :=
  (Keeps.cond (b && op == .inc) (.refl s) (keeps_setFlag s .zf (r == 0))).trans (keeps_stepSecond _ op v)

theorem keeps_wideZero (s : State) (value low : Nat) : Keeps s (s.wideZero value low) := by
  unfold State.wideZero
  split
  · exact keeps_setFlag s _ _
  · split
    · exact keeps_freeFlag s _
    · exact keeps_setFlag s _ _

/-! The shared operations of the families. -/

theorem okKeeps_storeW (s : State) (o : WObj) (v : Word) : OkKeeps s (storeW s o v) := fun _ => storeW_keeps

theorem okKeeps_storeB (s : State) (o : BObj) (v : Byte) : OkKeeps s (storeB s o v) := fun _ => storeB_keeps

theorem okKeeps_push16 (s : State) (v : Word) : OkKeeps s (push16 v s) := fun _ => push16_keeps

theorem okKeeps_takeReset (s : State) (cause : ResetCause) : OkKeeps s (takeReset cause s) := fun _ => takeReset_keeps

theorem okKeeps_writeW (s : State) (l : WLoc) (v : Word) : OkKeeps s (writeW s l v) := fun _ => writeW_keeps

theorem okKeeps_writeB (s : State) (l : BLoc) (v : Byte) : OkKeeps s (writeB s l v) := fun _ => writeB_keeps

theorem okKeeps_writeFlagsW (s : State) (l : WLoc) (v : Word) {f : State → State} (hf : ∀ t, Keeps t (f t)) :
    OkKeeps s (writeFlagsW s l v f) := fun _ => writeFlagsW_keeps hf

theorem okKeeps_writeFlagsB (s : State) (l : BLoc) (v : Byte) {f : State → State} (hf : ∀ t, Keeps t (f t)) :
    OkKeeps s (writeFlagsB s l v f) := fun _ => writeFlagsB_keeps hf

theorem okKeeps_aluObjW (s : State) (op : AluOp) (o : WObj) (source : State → Res Word) :
    OkKeeps s (aluObjW op o source s) :=
  .read fun l => .read fun _ => .read fun _ =>
    .ite (okKeeps_writeFlagsW s l _ fun t => keeps_aluFlagsW t _) (.ok (keeps_aluFlagsW s _))

theorem okKeeps_aluObjB (s : State) (op : AluOp) (o : BObj) (source : State → Res Byte) :
    OkKeeps s (aluObjB op o source s) :=
  .read fun l => .read fun _ => .read fun _ =>
    .ite (okKeeps_writeFlagsB s l _ fun t => keeps_aluFlagsB t _) (.ok (keeps_aluFlagsB s _))

theorem okKeeps_logicImmB (s : State) (op : AluOp) (o : BObj) (n : Byte) : OkKeeps s (logicImmB op o n s) :=
  .read fun l => .read fun _ => .andThen (okKeeps_writeB s l _) fun t => .ok (.cond _ (.refl t) (keeps_aluFlagsB t _))

theorem okKeeps_putTestedBit (s : State) (o : BObj) (n : BitVec 3) (b : Bool) : OkKeeps s (putTestedBit o n b s) :=
  .read fun l => .read fun _ => .andThen (okKeeps_writeB s l _) fun t =>
    .ok (.cond _ (keeps_freeFlag t .zf) (keeps_setFlag t .zf _))

theorem okKeeps_testBit (s : State) (o : BObj) (n : BitVec 3) : OkKeeps s (testBit o n s) :=
  .read fun _ => .ok (keeps_setFlag s _ _)

theorem okKeeps_bitToCarry (s : State) (o : BObj) (n : BitVec 3) : OkKeeps s (bitToCarry o n s) :=
  .read fun _ => .ok (keeps_setFlag s _ _)

theorem okKeeps_carryToBit (s : State) (o : BObj) (n : BitVec 3) : OkKeeps s (carryToBit o n s) :=
  .read fun l => .read fun _ => okKeeps_writeB s l _

theorem okKeeps_romLoadW (s : State) (ra : Word) : OkKeeps s (romLoadW s ra) :=
  .read fun _ => .ok ((keeps_setA s _).trans (keeps_setFlag _ _ _))

theorem okKeeps_romLoadB (s : State) (ra : Word) : OkKeeps s (romLoadB s ra) :=
  .read fun _ => .ok ((keeps_setAl s _).trans (keeps_setFlag _ _ _))

theorem okKeeps_romCompareW (s : State) (ra : Word) : OkKeeps s (romCompareW s ra) :=
  .read fun _ => .ok (keeps_aluFlagsW s _)

theorem okKeeps_romCompareB (s : State) (ra : Word) : OkKeeps s (romCompareB s ra) :=
  .read fun _ => .ok (keeps_aluFlagsB s _)

theorem okKeeps_multiply (s : State) : OkKeeps s (multiply s) :=
  .read fun _ => .read fun l => okKeeps_writeFlagsW s l _ fun t => (keeps_setA t _).trans (keeps_wideZero _ _ _)

theorem okKeeps_multiplyB (s : State) : OkKeeps s (multiplyB s) :=
  .read fun _ => .ok ((keeps_setA s _).trans (keeps_setFlag _ _ _))

/-- What DIV writes: er0, A, er1 and then the flags. -/
theorem okKeeps_quotient (s : State) (l0 l1 : WLoc) (q1 q0 r : Word) {f : State → State} (hf : ∀ t, Keeps t (f t)) :
    OkKeeps s (writeW s l0 q1 >>= fun t => writeFlagsW (t.setA q0) l1 r f) :=
  .andThen (okKeeps_writeW s l0 q1) fun t => .after (keeps_setA t q0) (okKeeps_writeFlagsW _ l1 r hf)

/-- By zero the quotient and the remainder are drawn before they are written (log entry 11). -/
theorem okKeeps_divide (s : State) : OkKeeps s (divide s) :=
  .read fun _ => .read fun _ => .read fun l0 => .read fun l1 => .ite
    (.ite (.refuse _) (.after (((keeps_draw s).trans (keeps_draw _)).trans (keeps_draw _))
      (okKeeps_quotient _ l0 l1 _ _ _ fun t => (keeps_setFlag t .cf true).trans (keeps_freeFlag _ .zf))))
    (.ite (.refuse _)
      (okKeeps_quotient s l0 l1 _ _ _ fun t => (keeps_setFlag t .cf false).trans (keeps_wideZero _ _ _)))

theorem okKeeps_divideB (s : State) : OkKeeps s (divideB s) :=
  .read fun _ => .read fun l => .ite
    (.after (((keeps_draw s).trans (keeps_draw _)).trans (keeps_setA _ _))
      (okKeeps_writeFlagsB _ l _ fun t => (keeps_setFlag t .cf true).trans (keeps_freeFlag _ .zf)))
    (.after (keeps_setA s _)
      (okKeeps_writeFlagsB _ l _ fun t => (keeps_setFlag t .cf false).trans (keeps_setFlag _ .zf _)))

theorem okKeeps_illegalCode (s : State) : OkKeeps s (illegalCode s) := by
  unfold illegalCode
  split
  · exact .refuse _
  · exact okKeeps_takeReset s _

theorem okKeeps_returnFromInterrupt (s : State) : OkKeeps s (returnFromInterrupt s) :=
  .pop fun _ _ => .pop fun _ _ => .pop fun _ _ => .pop fun _ _ => .ok (.ofRam rfl rfl rfl rfl)

/-! The forms that several instructions share. -/

theorem nextKeeps_loadWord (s : State) (n : Nat) (o : WObj) : NextKeeps s (loadWord n o s) :=
  OkKeeps.finish (.read fun v => .ok (keeps_loadA s v))

theorem nextKeeps_loadByte (s : State) (n : Nat) (o : BObj) : NextKeeps s (loadByte n o s) :=
  OkKeeps.finish (.read fun v => .ok (keeps_loadAl s v))

theorem nextKeeps_storeAcc (s : State) (n : Nat) (ow : WObj) (ob : BObj) : NextKeeps s (storeAcc n ow ob s) :=
  OkKeeps.finish (.ite (okKeeps_storeW s ow _) (okKeeps_storeB s ob _))

theorem nextKeeps_stbR (s : State) (r : BitVec 3) : NextKeeps s (execStbR r s) :=
  OkKeeps.finish (.ite (.read fun _ => okKeeps_storeW s _ _) (okKeeps_storeB s _ _))

theorem nextKeeps_moveWord (s : State) (n : Nat) (o d : WObj) : NextKeeps s (moveWord n o d s) :=
  OkKeeps.finish (.read fun v => okKeeps_storeW s d v)

theorem nextKeeps_moveByte (s : State) (n : Nat) (o d : BObj) : NextKeeps s (moveByte n o d s) :=
  OkKeeps.finish (.read fun v => okKeeps_storeB s d v)

theorem nextKeeps_exchangeW (s : State) (o : WObj) : NextKeeps s (execXchgAObj o s) :=
  .ite (OkKeeps.finish (.read fun l => .read fun v => .andThen (okKeeps_writeW s l _) fun t => .ok (keeps_setA t v)))
    (.refused _)

theorem nextKeeps_exchangeB (s : State) (o : BObj) : NextKeeps s (execXchgbAObj o s) :=
  .ite (.refused _)
    (OkKeeps.finish (.read fun l => .read fun v => .andThen (okKeeps_writeB s l _) fun t => .ok (keeps_setAl t v)))

theorem nextKeeps_xnblAOff (s : State) (n : Byte) : NextKeeps s (execXnblAOff n s) :=
  OkKeeps.finish (.read fun _ => .andThen (okKeeps_storeB s _ _) fun t => .ok (keeps_setA t _))

theorem nextKeeps_shiftWord (s : State) (op : ShiftOp) (o : WObj) : NextKeeps s (shiftWord op o s) :=
  OkKeeps.finish (.read fun l => .read fun _ => okKeeps_writeFlagsW s l _ fun t => keeps_setFlag t _ _)

theorem nextKeeps_shiftByte (s : State) (op : ShiftOp) (o : BObj) : NextKeeps s (shiftByte op o s) :=
  OkKeeps.finish (.read fun l => .read fun _ => okKeeps_writeFlagsB s l _ fun t => keeps_setFlag t _ _)

theorem nextKeeps_stepWord (s : State) (op : StepOp) (n : Nat) (o : WObj) : NextKeeps s (stepWord op n o s) :=
  OkKeeps.finish (.read fun l => .read fun _ => okKeeps_writeFlagsW s l _ fun t => keeps_stepFlags t _ _ _ _)

theorem nextKeeps_stepByte (s : State) (op : StepOp) (n : Nat) (o : BObj) : NextKeeps s (stepByte op n o s) :=
  OkKeeps.finish (.read fun l => .read fun _ => okKeeps_writeFlagsB s l _ fun t => keeps_stepFlags t _ _ _ _)

theorem nextKeeps_aluImmW (s : State) (op : AluOp) (n : Word) : NextKeeps s (aluImmW op n s) :=
  .ite (OkKeeps.finish (.ok (keeps_aluAccW s op n))) (OkKeeps.finish (.ok (keeps_aluAccB s op _)))

theorem nextKeeps_aluImmB (s : State) (op : AluOp) (n : Byte) : NextKeeps s (aluImmB op n s) :=
  .ite (OkKeeps.finish (.read fun _ => .ok (keeps_aluAccW s op _))) (OkKeeps.finish (.ok (keeps_aluAccB s op n)))

theorem nextKeeps_aluReg (s : State) (op : AluOp) (r : BitVec 3) : NextKeeps s (aluReg op r s) :=
  OkKeeps.finish (.ite (.read fun _ => .read fun v => .ok (keeps_aluAccW s op v))
    (.read fun v => .ok (keeps_aluAccB s op v)))

theorem nextKeeps_aluOff (s : State) (op : AluOp) (n : Byte) : NextKeeps s (aluOff op n s) :=
  OkKeeps.finish (.ite (.read fun v => .ok (keeps_aluAccW s op v)) (.read fun v => .ok (keeps_aluAccB s op v)))

theorem nextKeeps_aluAObjW (s : State) (op : AluOp) (o : WObj) : NextKeeps s (aluAObjW op o s) :=
  .ite (OkKeeps.finish (.read fun v => .ok (keeps_aluAccW s op v))) (.refused _)

theorem nextKeeps_aluAObjB (s : State) (op : AluOp) (o : BObj) : NextKeeps s (aluAObjB op o s) :=
  .ite (.refused _) (OkKeeps.finish (.read fun v => .ok (keeps_aluAccB s op v)))

theorem nextKeeps_jump (s : State) (target : Res Word) : NextKeeps s (jump s target) :=
  OkKeeps.outcome (.read fun v => .ok (keeps_setPc s v))

theorem nextKeeps_loopJump (s : State) (rel : Byte) : NextKeeps s (loopJump rel s) :=
  OkKeeps.outcome (.read fun _ => .read fun v => .andThen (fun _ => writeByte_keeps) fun t => .ok (keeps_setPc t v))

theorem nextKeeps_call (s : State) (n : Nat) (target : Res Word) : NextKeeps s (call n target s) :=
  OkKeeps.outcome (.read fun v => .read fun ra => .andThen (okKeeps_push16 s ra) fun t =>
    .ok ((keeps_setFlag t .sf false).trans (keeps_setPc _ v)))

/-! The instructions. -/

/-- Every instruction keeps what the state before it has: each is one of the shared forms, or ends one of the shared
operations. -/
theorem nextKeeps_exec (s : State) (i : Instr) : NextKeeps s (exec i s) := by
  cases i with
  -- Data transfer
  | lImm _ | clrA => exact OkKeeps.finish (.ok (keeps_loadA s _))
  | lbImm _ | clrbA => exact OkKeeps.finish (.ok (keeps_loadAl s _))
  | lEr _ | lX1Ind _ | lX2Ind _ | lUspInd _ | lOff _ | lZp _ | lX1 | lX2 | lDp | lDpInd =>
    exact nextKeeps_loadWord s _ _
  | lbR _ | lbX1Ind _ | lbX2Ind _ | lbUspInd _ | lbOff _ | lbZp _ | lbDpInd => exact nextKeeps_loadByte s _ _
  | stEr _ | stX1Ind _ | stbX1Ind _ | stX2Ind _ | stbX2Ind _ | stUspInd _ | stbUspInd _ | stOff _ | stbOff _ | stZp _
  | stbZp _ | stDpInd | stbDpInd => exact nextKeeps_storeAcc s _ _ _
  | stbR r => exact nextKeeps_stbR s r
  | movX1Imm _ | movX2Imm _ | movDpImm _ | movLrbImm _ | movX1A | movX2A | movDpA | movObjA _ | movObjImm _ _
  | clrObj _ => exact OkKeeps.finish (okKeeps_storeW s _ _)
  | movbObjA _ | movbRImm _ _ | movbObjImm _ _ | clrbObj _ => exact OkKeeps.finish (okKeeps_storeB s _ _)
  | movX1Obj _ | movX2Obj _ | movDpObj _ | movUspObj _ | movSspObj _ | movLrbObj _ | movErObj _ _ | movOffObj _ _ =>
    exact nextKeeps_moveWord s _ _ _
  | movbRObj _ _ | movbOffObj _ _ | movbPswhObj _ | movbPswlObj _ => exact nextKeeps_moveByte s _ _ _
  | movAObj _ => exact OkKeeps.finish (.read fun v => .ok ((keeps_setA s v).trans (keeps_setDd _ true)))
  | movbAObj _ => exact OkKeeps.finish (.read fun v => .ok ((keeps_setAl s v).trans (keeps_setDd _ false)))
  | movPswObj _ => exact OkKeeps.finish (.read fun v => .ok (keeps_setReg s .psw v))
  | swap | swapb => exact OkKeeps.finish (.ok (keeps_swapAcc s))
  | xchgAObj o => exact nextKeeps_exchangeW s o
  | xchgbAObj o => exact nextKeeps_exchangeB s o
  | xnblAOff n => exact nextKeeps_xnblAOff s n
  -- Stack
  | pushsA | pushsLrb => exact OkKeeps.finish (okKeeps_push16 s _)
  | popsA => exact OkKeeps.finish (.pop fun v t => .ok ((keeps_setA t v).trans (keeps_setDd _ true)))
  | popsLrb => exact OkKeeps.finish (.pop fun v t => .ok (keeps_setLrb t v))
  -- Rotates and shifts
  | rolA | rolbA | rorA | rorbA | sllA | sllbA | srlA | srlbA | sraA | srabA =>
    exact OkKeeps.finish (.ok (keeps_shiftAcc _ s))
  | rolObj o | rorObj o | sllObj o | srlObj o | sraObj o => exact nextKeeps_shiftWord s _ o
  | rolbObj o | rorbObj o | sllbObj o | srlbObj o | srabObj o => exact nextKeeps_shiftByte s _ o
  -- Increments and decrements
  | incX1 | incX2 | incDp | decX1 | decX2 | decDp | incLrb | decLrb | incObj _ | decObj _ =>
    exact nextKeeps_stepWord s _ _ _
  | incbR _ | decbR _ | incbObj _ | decbObj _ => exact nextKeeps_stepByte s _ _ _
  -- ROM table reference
  | lcDirect n => exact OkKeeps.finish (okKeeps_romLoadW s n)
  | lcInd _ | lcBased _ _ => exact OkKeeps.finish (.read (okKeeps_romLoadW s))
  | lcbDirect n => exact OkKeeps.finish (okKeeps_romLoadB s n)
  | lcbInd _ | lcbBased _ _ => exact OkKeeps.finish (.read (okKeeps_romLoadB s))
  | cmpcDirect n => exact OkKeeps.finish (okKeeps_romCompareW s n)
  | cmpcInd _ | cmpcBased _ _ => exact OkKeeps.finish (.read (okKeeps_romCompareW s))
  | cmpcbDirect n => exact OkKeeps.finish (okKeeps_romCompareB s n)
  | cmpcbInd _ | cmpcbBased _ _ => exact OkKeeps.finish (.read (okKeeps_romCompareB s))
  -- The ALU families
  | addAImm n | adcAImm n | subAImm n | sbcAImm n | cmpAImm n | andAImm n | orAImm n | xorAImm n =>
    exact nextKeeps_aluImmW s _ n
  | addbAImm n | adcbAImm n | subbAImm n | sbcbAImm n | cmpbAImm n | andbAImm n | orbAImm n | xorbAImm n =>
    exact nextKeeps_aluImmB s _ n
  | addAEr _ | adcAEr _ | subAEr _ | sbcAEr _ | cmpAEr _ | andAEr _ | orAEr _
  | addbAR _ | adcbAR _ | subbAR _ | sbcbAR _ | cmpbAR _ | andbAR _ | orbAR _ => exact nextKeeps_aluReg s _ _
  | addAOff n | adcAOff n | subAOff n | sbcAOff n | cmpAOff n | andAOff n | orAOff n | xorAOff n
  | addbAOff n | adcbAOff n | subbAOff n | sbcbAOff n | cmpbAOff n | andbAOff n | orbAOff n | xorbAOff n =>
    exact nextKeeps_aluOff s _ n
  | addAObj o | adcAObj o | subAObj o | sbcAObj o | cmpAObj o | andAObj o | orAObj o | xorAObj o =>
    exact nextKeeps_aluAObjW s _ o
  | addbAObj o | adcbAObj o | subbAObj o | sbcbAObj o | cmpbAObj o | andbAObj o | orbAObj o | xorbAObj o =>
    exact nextKeeps_aluAObjB s _ o
  | addObjA o | adcObjA o | subObjA o | sbcObjA o | cmpObjA o | andObjA o | orObjA o | xorObjA o
  | addObjOff o _ | adcObjOff o _ | subObjOff o _ | sbcObjOff o _ | cmpObjOff o _ | andObjOff o _ | orObjOff o _
  | xorObjOff o _ | addObjImm o _ | adcObjImm o _ | subObjImm o _ | sbcObjImm o _ | cmpObjImm o _ | andObjImm o _
  | orObjImm o _ | xorObjImm o _ => exact OkKeeps.finish (okKeeps_aluObjW s _ o _)
  | addbObjA o | adcbObjA o | subbObjA o | sbcbObjA o | cmpbObjA o | andbObjA o | orbObjA o | xorbObjA o
  | addbObjOff o _ | adcbObjOff o _ | subbObjOff o _ | sbcbObjOff o _ | cmpbObjOff o _ | andbObjOff o _
  | orbObjOff o _ | xorbObjOff o _ | addbObjImm o _ | adcbObjImm o _ | subbObjImm o _ | sbcbObjImm o _
  | cmpbObjImm o _ => exact OkKeeps.finish (okKeeps_aluObjB s _ o _)
  | andbObjImm o n | orbObjImm o n | xorbObjImm o n => exact OkKeeps.finish (okKeeps_logicImmB s _ o n)
  | mul => exact OkKeeps.finish (okKeeps_multiply s)
  | mulb => exact OkKeeps.finish (okKeeps_multiplyB s)
  | div => exact OkKeeps.finish (okKeeps_divide s)
  | divb => exact OkKeeps.finish (okKeeps_divideB s)
  -- Bit operations
  | sbBit o _ | rbBit o _ | sbrObj o | rbrObj o => exact OkKeeps.finish (okKeeps_putTestedBit s o _ _)
  | mbCBit o _ | mbrCObj o => exact OkKeeps.finish (okKeeps_bitToCarry s o _)
  | mbBitC o _ | mbrObjC o => exact OkKeeps.finish (okKeeps_carryToBit s o _)
  | tbrObj o => exact OkKeeps.finish (okKeeps_testBit s o _)
  -- Decimal adjust, sign extension, and the rest
  | daa | das | extnd => exact OkKeeps.finish (.ok (.ofRam rfl rfl rfl rfl))
  | sc | rc => exact OkKeeps.finish (.ok (keeps_setFlag s _ _))
  | nop => exact OkKeeps.finish (.ok (.refl s))
  | brk => exact OkKeeps.outcome (okKeeps_takeReset s _)
  -- Jumps, calls and returns
  | jAddr ad => exact nextKeeps_jump s (.ok ad)
  | sj _ | jObj _ | jcGt _ | jcEq _ | jcLt _ | jcGe _ | jcNe _ | jcLe _ | jbs _ _ _ | jbr _ _ _ =>
    exact nextKeeps_jump s _
  | jrnz rel => exact nextKeeps_loopJump s rel
  | scal _ | calAddr _ | calObj _ | vcal _ => exact nextKeeps_call s _ _
  | rt => exact OkKeeps.outcome (.pop fun v t => .ok ((keeps_setFlag t .sf false).trans (keeps_setPc _ v)))
  | rti => exact OkKeeps.outcome (okKeeps_returnFromInterrupt s)
  -- Operand prefixes without a suffix, and illegal codes
  | wpEr _ _ | wpX1 _ | wpX2 _ | wpDp _ | wpSsp _ | wpUsp _ | wpLrb _ | wpX1Ind _ _ | wpX2Ind _ _ | wpDpInd _
  | wpUspInd _ _ | wpOff _ _ | wpZp _ _ | bpR _ _ | bpPswh _ | bpPswl _ | bpX1Ind _ _ | bpX2Ind _ _ | bpDpInd _
  | bpUspInd _ _ | bpOff _ _ | bpZp _ _ | illegal _ => exact OkKeeps.outcome (okKeeps_illegalCode s)

/-- A step keeps what the state has once its boundary has passed: it takes an event there or runs an instruction. -/
theorem step_keeps {s t : State} (h : step s = .next t) : Keeps s.passBoundary t := by
  obtain ⟨e, -, he⟩ | ⟨-, i, n, -, hi⟩ := step_cases h
  · exact takeEvent_keeps he
  · exact nextKeeps_exec _ i t hi

/-- The invariant does not speak of the environment, so it holds at a boundary as before it. -/
theorem inv_passBoundary {s : State} (h : Inv s) : Inv s.passBoundary := h

/-- Settles O4: the invariant holds once the boundary has passed, and what the step then does keeps it. -/
theorem stepKeepsInvariant : Obligations.StepKeepsInvariant :=
  fun _ _ hinv hstep => (step_keeps hstep).inv (inv_passBoundary hinv)

/-- Settles O5: what a step keeps includes the environment of the boundary passed; an event is taken where it is due,
which is where it is live and chosen. -/
theorem stepKeepsParameters : Obligations.StepKeepsParameters := by
  intro s t hstep
  obtain ⟨hcfg, hrom, henv, -⟩ := step_keeps hstep
  refine ⟨hcfg, hrom, congrArg Environment.schedule henv, congrArg Environment.passed henv, ?_⟩
  obtain ⟨e, hdue, htake⟩ | ⟨hdue, i, n, -, hrun⟩ := step_cases hstep
  · obtain ⟨hlive, hchoice⟩ := State.due_eq_some.mp hdue
    exact .inl ⟨e, hlive, hchoice, htake⟩
  · exact .inr ⟨State.due_eq_none.mp hdue, i, hrun⟩

end Sys2Proof.Machine
end

section
/-! Proofs about the access to data memory: a word at its even address, and an address that holds no byte
(spec/20_memory.md R64, R66, R70 to R72). -/

namespace Sys2Proof.Machine

/-! The word boundary. -/

theorem readWord_even (s : State) (ea : Word) : readWord s (evenAddr ea) = readWord s ea := by
  unfold readWord
  rw [evenAddr_evenAddr]

theorem writeWord_even (s : State) (ea v : Word) : writeWord s (evenAddr ea) v = writeWord s ea v := by
  unfold writeWord
  rw [evenAddr_evenAddr]

/-- A word determines its two bytes (R64). -/
theorem mkWord_inj {h l h' l' : Byte} (heq : mkWord h l = mkWord h' l') : h = h' ∧ l = l' :=
  ⟨by simpa using congrArg hiByte heq, by simpa using congrArg loByte heq⟩

/-- A word reads as `hi:lo` exactly where its two bytes read as `lo` and `hi` (R64, R66). -/
theorem readWord_eq_mkWord_iff {s : State} {ea : Word} {lo hi : Byte} :
    readWord s ea = .ok (mkWord hi lo) ↔
      readByte s (evenAddr ea) = .ok lo ∧ readByte s (evenAddr ea + 1) = .ok hi := by
  constructor
  · intro h
    obtain ⟨lo', hi', hlo, hhi, heq⟩ := readWord_cases h
    obtain ⟨rfl, rfl⟩ := mkWord_inj heq
    exact ⟨hlo, hhi⟩
  · rintro ⟨hlo, hhi⟩
    exact readWord_eq hlo hhi

/-- Settles O11: both accesses go through the even address, and a write is what WroteW says of it. -/
theorem wordBoundary : Obligations.WordBoundary := by
  refine fun s ea v => ⟨(readWord_even s ea).symm, (writeWord_even s ea v).symm, fun _ _ => readWord_eq_mkWord_iff,
    fun t ht => ?_⟩
  have hwrote := writeWord_wrote ht
  exact ⟨hwrote.value, hwrote.changes⟩

/-! Addresses that hold no byte. -/

theorem byte_access_sfr {s : State} {ea : Word} (h : place s.cfg ea = .sfr) (v : Byte) :
    readByte s ea = refuse (.peripheralRegister ea) ∧ writeByte s ea v = refuse (.peripheralRegister ea) := by
  unfold readByte writeByte
  rw [h]
  exact ⟨rfl, rfl⟩

theorem byte_access_absent {s : State} {ea : Word} (h : place s.cfg ea = .absent) (v : Byte) :
    readByte s ea = noMemory (.absentData ea) ∧ writeByte s ea v = noMemory (.absentData ea) := by
  unfold readByte writeByte
  rw [h]
  exact ⟨rfl, rfl⟩

theorem romByte_absent {s : State} {a : Nat} (h : s.rom.cell a = none) : romByte s a = noMemory (.absentProgram a) := by
  unfold romByte
  rw [h]

/-- Settles O13: each access looks at what the address is and stops where that is no byte. -/
theorem missingMemory : Obligations.MissingMemory :=
  fun _ _ v => ⟨fun h => byte_access_sfr h v, fun h => byte_access_absent h v, fun _ h => romByte_absent h⟩

end Sys2Proof.Machine
end

section
/-! Proofs about the system stack: what a push and a pop do, and where SSP would leave 0000H..FFFFH
(spec/20_memory.md R75, spec/41_stack.md R221 to R224, spec/50_jump_call.md R425 to R428, spec/60_exceptions.md
R462). -/

namespace Sys2Proof.Machine

/-! A push and a pop that go through. -/

theorem Touch.or_comm (f g : Touch) : f.or g = g.or f := funext fun _ => funext fun _ => Bool.or_comm _ _

/-- A word location that shows no register holds all of a word. -/
theorem WLoc.mask_of_regAt_none {c : Config} {ea : Word} (h : regAt c ea = none) :
    (WLoc.mem ea).mask c = 0xFFFF#16 := by
  simp only [WLoc.mask, WLoc.isLrb, h]
  rfl

/-- A word that shows no register reads the same after SSP is written. -/
theorem readWord_ssp_write {s : State} {ea : Word} (h : regAt s.cfg ea = none) (v : Word) :
    readWord { s with ssp := v } ea = readWord s ea := by
  refine readW_of_changes (l := .mem ea) (changes_ssp s v []) (fun _ _ => List.not_mem_nil) fun r k hk => ?_
  simp [WLoc.touches, h, Touch.nothing] at hk

/-- A push leaves its word at the old SSP and SSP less 2 (R75). -/
theorem push16_spec {s : State} (v : Word) (h : 2 ≤ s.ssp.toNat) (ha : (WLoc.mem s.ssp).accessible s.cfg = true) :
    ∃ t, push16 v s = .ok t ∧ t.ssp = s.ssp - 2 ∧ t.pc = s.pc ∧
      (regAt s.cfg s.ssp = none → readWord t s.ssp = .ok v) ∧
      Changes s t ((Touch.all .ssp).or ((WLoc.mem s.ssp).touches s.cfg)) (WLoc.mem s.ssp).bytes := by
  obtain ⟨u, hwrote, hpush⟩ := push16_ok v h ha
  refine ⟨_, hpush, rfl, hwrote.pc, fun hreg => ?_, ?_⟩
  · have hread : readWord u s.ssp = .ok (v &&& (WLoc.mem s.ssp).mask s.cfg) := hwrote.value
    rw [readWord_ssp_write (by rw [hwrote.changes.cfg]; exact hreg), hread, WLoc.mask_of_regAt_none hreg]
    exact congrArg Except.ok BitVec.and_allOnes
  · rw [Touch.or_comm]
    exact hwrote.changes.comp (changes_ssp u _ _)

/-- A pop and then an update that leaves PC ends at the next instruction. -/
theorem finish_pop {s : State} {v : Word} {n : Nat} (hp : s.pc.toNat + n ≤ 0xFFFF) (hs : s.ssp.toNat + 2 ≤ 0xFFFF)
    (hv : readWord s (s.ssp + 2) = .ok v) (f : Word → State → State) (hf : ∀ t, (f v t).pc = t.pc) :
    finish n (pop16 s >>= fun x => .ok (f x.1 x.2)) =
      .next ((f v { s with ssp := s.ssp + 2 }).setPc (s.pc + BitVec.ofNat 16 n)) :=
  finish_next (by rw [pop16_ok hs hv]; rfl) (hf _) hp

/-- Settles O26: the pushes are the law of a push; the pops write SSP, the register and, for A, then DD. -/
theorem pushAndPop : Obligations.PushAndPop := by
  refine ⟨fun s i v hi hpc hssp hacc => ?_, fun s v hpc hssp hv => ⟨?_, ?_⟩⟩
  · obtain ⟨t, hpush, hsspt, hpct, hread, hchanges⟩ := push16_spec v hssp hacc
    have hexec : exec i s = finish 1 (push16 v s) := by
      simp only [List.mem_cons, Prod.mk.injEq, List.not_mem_nil, or_false] at hi
      obtain ⟨rfl, rfl⟩ | ⟨rfl, rfl⟩ := hi <;> rfl
    exact ⟨_, hexec.trans (finish_next hpush hpct hpc), hsspt, hread, rfl, hchanges.setPc _⟩
  · refine ⟨_, finish_pop hpc hssp hv (fun v t => (t.setA v).setDd true) fun _ => rfl, rfl,
      State.dd_setDd _ true, rfl, rfl, Changes.setPc ?_ _⟩
    exact (changes_setA s v []).comp ((changes_ssp (s.setA v) _ []).comp (changes_setDd _ true []))
  · refine ⟨_, finish_pop hpc hssp hv (fun v t => t.setLrb v) fun _ => rfl,
      State.lrbWord_setLrb { s with ssp := s.ssp + 2 } v, rfl, rfl, Changes.setPc ?_ _⟩
    exact (changes_setLrb s v []).comp (changes_ssp (s.setLrb v) _ [])

/-! A push and a pop that are refused. -/

theorem push16_refused {s : State} (v : Word) (h : s.ssp.toNat < 2) : push16 v s = refuse .stackPointerOutOfRange :=
  if_neg (by omega)

theorem pop16_refused {s : State} (h : 0xFFFF < s.ssp.toNat + 2) : pop16 s = refuse .stackPointerOutOfRange :=
  if_neg (by omega)

/-- A call with its target read and its return address in range is refused where its push is (R425). -/
theorem call_push_refused {s : State} {n : Nat} {target : Res Word} {tgt : Word} (ht : target = .ok tgt)
    (hl : s.pc.toNat + n ≤ 0xFFFF) (hs : s.ssp.toNat < 2) : call n target s = .refused .stackPointerOutOfRange := by
  unfold call
  rw [ht, returnAddress_ok hl, Res.bind_ok, Res.bind_ok, push16_refused _ hs]
  rfl

/-! A refusal that comes after pushes or pops that go through. -/

/-- Every word a push can store to before SSP would pass 0000H can be written. -/
def PushesGoThrough (s : State) : Prop :=
  ∀ k, 2 * k + 2 ≤ s.ssp.toNat → (WLoc.mem (s.ssp - BitVec.ofNat 16 (2 * k))).accessible s.cfg = true

/-- One push goes through and leaves the same for those after it. -/
theorem PushesGoThrough.push {s : State} (h : PushesGoThrough s) (hs : 2 ≤ s.ssp.toNat) (v : Word) :
    ∃ t, push16 v s = .ok t ∧ t.ssp.toNat + 2 = s.ssp.toNat ∧ PushesGoThrough t := by
  have hfirst := h 0 hs
  obtain ⟨t, hpush, hssp, -, -, hchanges⟩ := push16_spec v hs (by simpa using hfirst)
  have hless : t.ssp.toNat + 2 = s.ssp.toNat := by rw [hssp]; bv_omega
  refine ⟨t, hpush, hless, fun k hk => ?_⟩
  have hword : t.ssp - BitVec.ofNat 16 (2 * k) = s.ssp - BitVec.ofNat 16 (2 * (k + 1)) := by
    bv_omega
  rw [hword, hchanges.cfg]
  exact h (k + 1) (by omega)

/-- Where SSP is less than `n + 2`, a push is refused or leaves SSP less than `n`; so if what follows is refused there,
all of it is. -/
theorem push16_bind_refused {s : State} {n : Nat} (h : PushesGoThrough s) (hn : s.ssp.toNat < n + 2) (v : Word)
    {k : State → Res State}
    (hk : ∀ t, PushesGoThrough t → t.ssp.toNat < n → k t = refuse .stackPointerOutOfRange) :
    push16 v s >>= k = refuse .stackPointerOutOfRange := by
  by_cases hs : 2 ≤ s.ssp.toNat
  · obtain ⟨t, hpush, hless, ht⟩ := h.push hs v
    rw [hpush, Res.bind_ok]
    exact hk t ht (by omega)
  · rw [push16_refused v (by omega)]
    rfl

/-- An interrupt entry, which pushes 8 bytes, is refused where SSP is less than 8 (spec/60_exceptions.md R462). -/
theorem takeInterrupt_refused {s : State} (h : PushesGoThrough s) (hs : s.ssp.toNat < 8) (src : IntSource) :
    takeInterrupt src s = refuse .stackPointerOutOfRange :=
  push16_bind_refused (n := 6) h hs _ fun _ h1 hs1 => push16_bind_refused (n := 4) h1 hs1 _ fun _ h2 hs2 =>
    push16_bind_refused (n := 2) h2 hs2 _ fun _ h3 hs3 => push16_bind_refused (n := 0) h3 hs3 _ fun _ _ hs4 =>
      absurd hs4 (Nat.not_lt_zero _)

/-- Of the pops to come `k` go through, and the one after them would take SSP above FFFFH. -/
structure PopsLeft (k : Nat) (s : State) : Prop where
  inRange : s.ssp.toNat + 2 * k ≤ 0xFFFF
  last : 0xFFFF < s.ssp.toNat + 2 * k + 2
  accessible : ∀ j, j < k → (WLoc.mem (s.ssp + BitVec.ofNat 16 (2 * j + 2))).accessible s.cfg = true

/-- One pop goes through and leaves one fewer. -/
theorem PopsLeft.pop {k : Nat} {s : State} (h : PopsLeft (k + 1) s) :
    ∃ v t, pop16 s = .ok (v, t) ∧ PopsLeft k t := by
  have hrange := h.inRange
  have hlast := h.last
  obtain ⟨v, hv⟩ : ∃ v, readWord s (s.ssp + 2) = .ok v := readW_total (h.accessible 0 (Nat.succ_pos k))
  have hmore : (s.ssp + 2).toNat = s.ssp.toNat + 2 := by bv_omega
  refine ⟨v, _, pop16_ok (by omega) hv, ?_, ?_, fun j hj => ?_⟩
  · show (s.ssp + 2).toNat + 2 * k ≤ 0xFFFF
    omega
  · show 0xFFFF < (s.ssp + 2).toNat + 2 * k + 2
    omega
  · show (WLoc.mem (s.ssp + 2 + BitVec.ofNat 16 (2 * j + 2))).accessible s.cfg = true
    have hword : s.ssp + 2 + BitVec.ofNat 16 (2 * j + 2) = s.ssp + BitVec.ofNat 16 (2 * (j + 1) + 2) := by
      bv_omega
    rw [hword]
    exact h.accessible (j + 1) (by omega)

/-- Where at most `n` pops go through, a pop is refused or leaves fewer than `n`; so if what follows is refused there,
all of it is. -/
theorem pop16_bind_refused {s : State} {k n : Nat} (h : PopsLeft k s) (hk : k ≤ n)
    {f : Word × State → Res State}
    (hf : ∀ v t j, PopsLeft j t → j < n → f (v, t) = refuse .stackPointerOutOfRange) :
    pop16 s >>= f = refuse .stackPointerOutOfRange := by
  cases k with
  | zero =>
    rw [pop16_refused h.last]
    rfl
  | succ j =>
    obtain ⟨v, t, hpop, ht⟩ := h.pop
    rw [hpop, Res.bind_ok]
    exact hf v t j ht hk

/-- RTI, which pops four words, is refused where at most three go through (spec/50_jump_call.md R428). -/
theorem returnFromInterrupt_refused {s : State} {k : Nat} (h : PopsLeft k s) (hk : k < 4) :
    returnFromInterrupt s = refuse .stackPointerOutOfRange :=
  pop16_bind_refused (n := 3) h (by omega) fun _ _ _ h1 hk1 =>
    pop16_bind_refused (n := 2) h1 (by omega) fun _ _ _ h2 hk2 =>
      pop16_bind_refused (n := 1) h2 (by omega) fun _ _ _ h3 hk3 =>
        pop16_bind_refused (n := 0) h3 (by omega) fun _ _ _ _ hk4 => absurd hk4 (Nat.not_lt_zero _)

/-- Settles O27: each instruction meets the refusal of its first push or pop that leaves the range. -/
theorem stackRefusals : Obligations.StackRefusals := by
  refine fun s => ⟨?_, ?_, fun src hdue hs hpushes => ?_, ?_, fun k hk hrange hlast hreads => ?_⟩
  · intro i hi hs
    simp only [List.mem_cons, List.not_mem_nil, or_false] at hi
    obtain rfl | rfl := hi <;> exact congrArg (finish 1) (push16_refused _ hs)
  · rintro tgt i len hs hl
      (⟨rel, rfl, rfl, htgt⟩ | ⟨rfl, rfl⟩ | ⟨o, rfl, rfl, hload⟩ | ⟨n, lo, hi, rfl, rfl, hlo, hhi, rfl⟩)
    · exact call_push_refused (relTarget_ok htgt) hl hs
    · exact call_push_refused rfl hl hs
    · exact call_push_refused hload hl hs
    · exact call_push_refused (romWord_vcalEntry hlo hhi) hl hs
  · rw [step_of_due hdue]
    exact congrArg outcome (takeInterrupt_refused (s := s.passBoundary) hpushes hs src)
  · intro i hi hs
    have hpop (f : Word × State → Res State) : pop16 s >>= f = refuse .stackPointerOutOfRange := by
      rw [pop16_refused hs]
      rfl
    simp only [List.mem_cons, List.not_mem_nil, or_false] at hi
    obtain rfl | rfl | rfl := hi
    · exact congrArg (finish 1) (hpop _)
    · exact congrArg (finish 1) (hpop _)
    · exact congrArg outcome (hpop _)
  · refine congrArg outcome (returnFromInterrupt_refused (k := k) ⟨hrange, hlast, fun j hj => ?_⟩ hk)
    obtain ⟨v, hv⟩ := hreads j hj
    exact WLoc.accessible_of_readW (l := .mem _) hv

end Sys2Proof.Machine
end

section
/-! Proofs about the decoder: what it reads is the code of the instruction it gives (spec/30_encoding.md R100 to
R135). -/

namespace Sys2Proof

/-! An instruction and its code. -/

/-- What O8 and O9 share: `i` is well formed, its code is `bs`, and `dd` is the DD its code needs, if any (R108). -/
structure IsCode (ops : Opcodes) (dd : Bool) (i : Instr) (bs : List Byte) : Prop where
  wellFormed : i.wellFormed ops = true
  dd : ∀ b, i.ddSelect = some b → dd = b
  encode : encode ops i = some bs

/-- The bytes begin with the code of `i`, which has `n` of them, 1 to 6 (R100). -/
def StartsWithCode (ops : Opcodes) (dd : Bool) (bs : List Byte) (i : Instr) (n : Nat) : Prop :=
  ∃ code rest, bs = code ++ rest ∧ n = code.length ∧ 1 ≤ n ∧ n ≤ 6 ∧ IsCode ops dd i code

/-! The operand bytes after a code byte. -/

/-- `t.Gives i xs`: from the operand bytes `xs` the tail `t` makes the instruction `i` (R103). -/
inductive Tail.Gives : Tail → Instr → List Byte → Prop
  | none (i : Instr) : Gives (.none i) i []
  | byte (f : Byte → Instr) (n : Byte) : Gives (.byte f) (f n) [n]
  | word (f : Word → Instr) (n : Word) : Gives (.word f) (f n) (wordBytes n)
  | bytes (f : Byte → Byte → Instr) (b c : Byte) : Gives (.bytes f) (f b c) [b, c]

theorem Tail.Gives.length_le {t : Tail} {i : Instr} {xs : List Byte} (h : t.Gives i xs) : xs.length ≤ 2 := by
  cases h <;> simp

/-- What a tail reads is what it gives from the first of the bytes. -/
theorem Tail.gives_of_read {t : Tail} {len n : Nat} {bs : List Byte} {i : Instr} (h : t.read len bs = .instr i n) :
    ∃ xs rest, bs = xs ++ rest ∧ n = len + xs.length ∧ t.Gives i xs := by
  cases t with
  | none j =>
    cases h
    exact ⟨[], bs, rfl, rfl, .none i⟩
  | byte f =>
    match bs with
    | [] => cases h
    | b :: rest =>
      cases h
      exact ⟨[b], rest, rfl, rfl, .byte f b⟩
  | word f =>
    match bs with
    | [] | [_] => cases h
    | lo :: hi :: rest =>
      cases h
      have hbytes := wordBytes_mkWord hi lo
      exact ⟨_, rest, by rw [hbytes]; rfl, by rw [hbytes]; rfl, .word f (mkWord hi lo)⟩
  | bytes f =>
    match bs with
    | [] | [_] => cases h
    | b :: c :: rest =>
      cases h
      exact ⟨[b, c], rest, rfl, rfl, .bytes f b c⟩
  | noRegister => cases h

/-- After the bytes `pre`, whatever the tail gives has as its code `pre` and the operand bytes. -/
def Tail.Codes (ops : Opcodes) (dd : Bool) (pre : List Byte) (t : Tail) : Prop :=
  ∀ i xs, t.Gives i xs → IsCode ops dd i (pre ++ xs)

theorem Tail.Codes.startsWithCode {ops : Opcodes} {dd : Bool} {pre bs : List Byte} {t : Tail} {i : Instr} {n : Nat}
    (ht : t.Codes ops dd pre) (hpre : 1 ≤ pre.length ∧ pre.length ≤ 4) (h : t.read pre.length bs = .instr i n) :
    StartsWithCode ops dd (pre ++ bs) i n := by
  obtain ⟨xs, rest, rfl, rfl, hgives⟩ := Tail.gives_of_read h
  have := hgives.length_le
  exact ⟨pre ++ xs, rest, by simp, by simp, by omega, by omega, ht i xs hgives⟩

/-! The code bytes a row matches (R102, R129). -/

theorem and_mask_full (b : Byte) : b &&& 0xFF#8 = b := BitVec.and_allOnes

/-- A code with a 2-bit number in its low bits is its row's code with that number. -/
theorem or_low_two {b c : Byte} (h : b &&& 0xFC#8 = c) : c ||| (b.setWidth 2).setWidth 8 = b := by
  subst h
  ext k hk
  interval_cases k <;> simp

/-- A code with a 3-bit number in its low bits is its row's code with that number. -/
theorem or_low_three {b c : Byte} (h : b &&& 0xF8#8 = c) : c ||| (b.setWidth 3).setWidth 8 = b := by
  subst h
  ext k hk
  interval_cases k <;> simp

/-- Each instruction a row of the first-byte map makes has the byte matched as its code. -/
def CodeRow.Codes (ops : Opcodes) (dd : Bool) (r : CodeRow) : Prop :=
  ∀ b, r.hits b = true → (r.make b).Codes ops dd [b]

/-- Row by row the encoder writes the row's code, with the number in its low bits put back, and the operands read. -/
theorem plainRows_codes (ops : Opcodes) (dd : Bool) : ∀ r ∈ plainRows, r.Codes ops dd := by
  simp only [plainRows, plainRows1, plainRows2, List.cons_append, List.nil_append, List.forall_mem_cons, CodeRow.Codes,
    CodeRow.hits, beq_iff_eq, and_mask_full, List.not_mem_nil, false_implies, implies_true, and_true]
  and_intros
  all_goals
    rintro b hb i xs ⟨⟩
    refine ⟨rfl, nofun, ?_⟩
    show some _ = _
    simp only [hb, or_low_two, or_low_three, List.cons_append, List.nil_append]

/-- As `plainRows_codes`, for the instructions that need the DD of their rows (R108). -/
theorem sharedRows_codes (ops : Opcodes) (dd : Bool) : ∀ r ∈ bif dd then wordRows else byteRows, r.Codes ops dd := by
  cases dd <;>
    simp only [cond_true, cond_false, wordRows, byteRows, List.forall_mem_cons, CodeRow.Codes, CodeRow.hits, beq_iff_eq,
      and_mask_full, List.not_mem_nil, false_implies, implies_true, and_true]
  all_goals and_intros
  all_goals rintro b hb i xs ⟨⟩
  all_goals
    refine ⟨rfl, fun _ h => Option.some.inj h, ?_⟩
    show some _ = _
    simp only [hb, or_low_two, or_low_three, List.cons_append, List.nil_append]

theorem codeRows_codes (ops : Opcodes) (dd : Bool) : ∀ r ∈ codeRows dd, r.Codes ops dd := fun r hr =>
  (List.mem_append.1 hr).elim (plainRows_codes ops dd r) (sharedRows_codes ops dd r)

/-! The free first bytes (R9, R135). -/

/-- The instruction of a parameter has as its code the byte the parameter claims, and its operands. -/
theorem IsCode.ofParameter {ops : Opcodes} {dd : Bool} {i : Instr} {o : Option Byte} {b : Byte} {xs : List Byte}
    (ho : o = some b) (hwf : i.wellFormed ops = o.isSome) (henc : Sys2Proof.encode ops i = o.map fun c => c :: xs)
    (hdd : ∀ d, i.ddSelect = some d → dd = d) : IsCode ops dd i (b :: xs) where
  wellFormed := by rw [hwf, ho]; rfl
  dd := hdd
  encode := by rw [henc, ho]; rfl

theorem Opcodes.mem_codes {ops : Opcodes} {b : Byte} :
    b ∈ ops.codes ↔ ops.scal = some b ∨ ops.rolA = some b ∨ ops.srlA = some b ∨ ops.pushsA = some b ∨
      ops.popsA = some b ∨ ops.popsLrb = some b ∨ ops.incLrb = some b ∨ ops.decLrb = some b := by
  simp [codes, eq_comm]

/-- A free first byte is the code of the instruction whose parameter claims it, or is an illegal code. -/
theorem freeTail_codes (ops : Opcodes) (dd : Bool) {b : Byte} (hfree : isFree b = true) :
    (freeTail ops dd b).Codes ops dd [b] := by
  unfold freeTail
  simp only [beq_iff_eq]
  split_ifs with hscal hrol hsrl hpushs hpops hpopsLrb hinc hdec
  · rintro i xs ⟨⟩
    exact .ofParameter hscal rfl rfl nofun
  · cases dd <;> rintro i xs ⟨⟩ <;> exact .ofParameter hrol rfl rfl fun _ h => Option.some.inj h
  · cases dd <;> rintro i xs ⟨⟩ <;> exact .ofParameter hsrl rfl rfl fun _ h => Option.some.inj h
  · rintro i xs ⟨⟩
    exact .ofParameter hpushs rfl rfl nofun
  · rintro i xs ⟨⟩
    exact .ofParameter hpops rfl rfl nofun
  · rintro i xs ⟨⟩
    exact .ofParameter hpopsLrb rfl rfl nofun
  · rintro i xs ⟨⟩
    exact .ofParameter hinc rfl rfl nofun
  · rintro i xs ⟨⟩
    exact .ofParameter hdec rfl rfl nofun
  · rintro i xs ⟨⟩
    have hunclaimed : b ∉ ops.codes := by simp [Opcodes.mem_codes, *]
    have hwf : (isFree b && !ops.codes.contains b) = true := by simp [hfree, hunclaimed]
    exact ⟨hwf, nofun, rfl⟩

/-! The suffix tables (R125, R126, R128). -/

/-- Each instruction a row of a suffix table makes of an object and a suffix has as its code the bytes of the object,
which `bytes` gives, and that suffix. -/
def SuffixRow.Codes {ω : Type} (ops : Opcodes) (dd : Bool) (bytes : ω → List Byte) (r : SuffixRow ω) : Prop :=
  ∀ o b, r.hits o b = true → (r.make o b).Codes ops dd (bytes o ++ [b])

theorem WObj.isX1_iff {o : WObj} : o.isX1 = true ↔ o = .x1 := by cases o <;> simp [isX1]

theorem BObj.isPswh_iff {o : BObj} : o.isPswh = true ↔ o = .pswh := by cases o <;> simp [isPswh]

/-- As `plainRows_codes`. The objects a row takes are those its instruction is well formed with (R128); the rows left to
the end are the special pairs of X1 (R125). -/
theorem wordSuffixRows_codes (ops : Opcodes) (dd : Bool) : ∀ r ∈ wordSuffixRows, r.Codes ops dd WObj.prefixBytes := by
  simp only [wordSuffixRows, wordSuffixRows1, wordSuffixRows2, List.cons_append, List.nil_append, List.forall_mem_cons,
    SuffixRow.Codes, SuffixRow.hits, Bool.and_eq_true, beq_iff_eq, and_mask_full, List.not_mem_nil, false_implies,
    implies_true, and_true, WObj.isX1_iff]
  and_intros
  all_goals
    rintro o b ⟨hb, ht⟩ i xs ⟨⟩
    refine ⟨by first | exact ht | rfl, nofun, ?_⟩
  all_goals
    show some _ = _
    simp only [hb, or_low_two, List.append_assoc, List.cons_append, List.nil_append]
  all_goals
    rw [ht]
    rfl

/-- As `wordSuffixRows_codes`, with the special pairs of PSWH (R126). -/
theorem byteSuffixRows_codes (ops : Opcodes) (dd : Bool) : ∀ r ∈ byteSuffixRows, r.Codes ops dd BObj.prefixBytes := by
  simp only [byteSuffixRows, byteSuffixRows1, byteSuffixRows2, List.cons_append, List.nil_append, List.forall_mem_cons,
    SuffixRow.Codes, SuffixRow.hits, Bool.and_eq_true, beq_iff_eq, and_mask_full, List.not_mem_nil, false_implies,
    implies_true, and_true, BObj.isPswh_iff]
  and_intros
  all_goals
    rintro o b ⟨hb, ht⟩ i xs ⟨⟩
    refine ⟨by first | exact ht | rfl, nofun, ?_⟩
  all_goals
    show some _ = _
    simp only [hb, or_low_three, List.append_assoc, List.cons_append, List.nil_append]
  all_goals
    rw [ht]
    rfl

/-! An object with a suffix that has no row: it is unpaired (R135). -/

theorem WObj.wellFormed_unpaired (ops : Opcodes) (o : WObj) (b : Byte) :
    (o.unpaired b).wellFormed ops = !o.pairs b := by cases o <;> rfl

theorem WObj.encode_unpaired (ops : Opcodes) (o : WObj) (b : Byte) :
    encode ops (o.unpaired b) = some (o.prefixBytes ++ [b]) := by cases o <;> rfl

theorem WObj.ddSelect_unpaired (o : WObj) (b : Byte) : (o.unpaired b).ddSelect = none := by cases o <;> rfl

theorem BObj.wellFormed_unpaired (ops : Opcodes) (o : BObj) (b : Byte) :
    (o.unpaired b).wellFormed ops = !o.pairs b := by cases o <;> rfl

theorem BObj.encode_unpaired (ops : Opcodes) (o : BObj) (b : Byte) :
    encode ops (o.unpaired b) = some (o.prefixBytes ++ [b]) := by cases o <;> rfl

theorem BObj.ddSelect_unpaired (o : BObj) (b : Byte) : (o.unpaired b).ddSelect = none := by cases o <;> rfl

theorem WObj.isCode_unpaired (ops : Opcodes) (dd : Bool) {o : WObj} {b : Byte} (h : o.pairs b = false) :
    IsCode ops dd (o.unpaired b) (o.prefixBytes ++ [b]) where
  wellFormed := by rw [o.wellFormed_unpaired, h]; rfl
  dd := by rw [o.ddSelect_unpaired]; nofun
  encode := o.encode_unpaired ops b

theorem BObj.isCode_unpaired (ops : Opcodes) (dd : Bool) {o : BObj} {b : Byte} (h : o.pairs b = false) :
    IsCode ops dd (o.unpaired b) (o.prefixBytes ++ [b]) where
  wellFormed := by rw [o.wellFormed_unpaired, h]; rfl
  dd := by rw [o.ddSelect_unpaired]; nofun
  encode := o.encode_unpaired ops b

/-! A suffix looked up in its table, for word and byte objects alike (R125, R126). -/

/-- What `decodeWordSuffix` and `decodeByteSuffix` both do with a suffix byte. -/
def decodeSuffix {ω : Type} (rows : List (SuffixRow ω)) (unpaired : ω → Byte → Instr) (len : ω → Nat) (o : ω) (b : Byte)
    (bs : List Byte) : Decoded :=
  match rows.find? fun r => r.hits o b with
  | some r => (r.make o b).read (len o + 1) bs
  | none => .instr (unpaired o b) (len o + 1)

theorem decodeWordSuffix_cons (o : WObj) (b : Byte) (bs : List Byte) :
    decodeWordSuffix o (b :: bs) = decodeSuffix wordSuffixRows WObj.unpaired WObj.prefixLen o b bs := by
  cases hfind : wordSuffixRows.find? fun r => r.hits o b with
  | some r => simp only [decodeWordSuffix, decodeSuffix, hfind]
  | none => simp only [decodeWordSuffix, decodeSuffix, hfind]

theorem decodeByteSuffix_cons (o : BObj) (b : Byte) (bs : List Byte) :
    decodeByteSuffix o (b :: bs) = decodeSuffix byteSuffixRows BObj.unpaired BObj.prefixLen o b bs := by
  cases hfind : byteSuffixRows.find? fun r => r.hits o b with
  | some r => simp only [decodeByteSuffix, decodeSuffix, hfind]
  | none => simp only [decodeByteSuffix, decodeSuffix, hfind]

section Suffix
variable {ω : Type} {rows : List (SuffixRow ω)} {unpaired : ω → Byte → Instr} {len : ω → Nat} {o : ω} {b : Byte}
  {bs : List Byte}

theorem decodeSuffix_of_no_row (h : (rows.any fun r => r.hits o b) = false) :
    decodeSuffix rows unpaired len o b bs = .instr (unpaired o b) (len o + 1) := by
  have hnone : (rows.find? fun r => r.hits o b) = none := by simpa using h
  unfold decodeSuffix
  rw [hnone]

/-- Everything a suffix can be read as: the instruction of a row that matches it, or unpaired. -/
theorem decodeSuffix_cases {i : Instr} {n : Nat} (h : decodeSuffix rows unpaired len o b bs = .instr i n) :
    (∃ r ∈ rows, r.hits o b = true ∧ (r.make o b).read (len o + 1) bs = .instr i n) ∨
      ((rows.any fun r => r.hits o b) = false ∧ i = unpaired o b ∧ n = len o + 1) := by
  cases hfind : rows.find? fun r => r.hits o b with
  | some r =>
    have hhit : r.hits o b = true := List.find?_some (p := fun r : SuffixRow ω => r.hits o b) hfind
    unfold decodeSuffix at h
    rw [hfind] at h
    exact .inl ⟨r, List.mem_of_find?_eq_some hfind, hhit, h⟩
  | none =>
    have hany : (rows.any fun r => r.hits o b) = false := by simpa using hfind
    rw [decodeSuffix_of_no_row hany] at h
    cases h
    exact .inr ⟨hany, rfl, rfl⟩

/-- Where each row and the unpaired object have their codes, what a suffix is read as has the bytes read as its code. -/
theorem startsWithCode_of_decodeSuffix {ops : Opcodes} {dd : Bool} {bytes : ω → List Byte} {i : Instr} {n : Nat}
    (hlen : (bytes o).length = len o) (hbounds : 1 ≤ len o ∧ len o ≤ 3) (hrows : ∀ r ∈ rows, r.Codes ops dd bytes)
    (hunpaired : (rows.any fun r => r.hits o b) = false → IsCode ops dd (unpaired o b) (bytes o ++ [b]))
    (h : decodeSuffix rows unpaired len o b bs = .instr i n) : StartsWithCode ops dd (bytes o ++ b :: bs) i n := by
  have hpre : (bytes o ++ [b]).length = len o + 1 := by rw [List.length_append, hlen]; rfl
  rw [List.append_cons]
  obtain ⟨r, hr, hhit, hread⟩ | ⟨hany, rfl, rfl⟩ := decodeSuffix_cases h
  · rw [← hpre] at hread
    exact (hrows r hr o b hhit).startsWithCode (by omega) hread
  · exact ⟨bytes o ++ [b], bs, rfl, hpre.symm, by omega, by omega, hunpaired hany⟩

end Suffix

theorem startsWithCode_of_decodeWordSuffix (ops : Opcodes) (dd : Bool) {o : WObj} {bs : List Byte} {i : Instr} {n : Nat}
    (h : decodeWordSuffix o bs = .instr i n) : StartsWithCode ops dd (o.prefixBytes ++ bs) i n := by
  match bs with
  | [] => cases h
  | b :: rest =>
    exact startsWithCode_of_decodeSuffix o.prefixBytes_length o.prefixLen_bounds (wordSuffixRows_codes ops dd)
      (WObj.isCode_unpaired ops dd) (decodeWordSuffix_cons o b rest ▸ h)

theorem startsWithCode_of_decodeByteSuffix (ops : Opcodes) (dd : Bool) {o : BObj} {bs : List Byte} {i : Instr} {n : Nat}
    (h : decodeByteSuffix o bs = .instr i n) : StartsWithCode ops dd (o.prefixBytes ++ bs) i n := by
  match bs with
  | [] => cases h
  | b :: rest =>
    exact startsWithCode_of_decodeSuffix o.prefixBytes_length o.prefixLen_bounds (byteSuffixRows_codes ops dd)
      (BObj.isCode_unpaired ops dd) (decodeByteSuffix_cons o b rest ▸ h)

/-! The first byte (R124, R127). -/

/-- The first bytes of the prefixes, by the operand bytes they take (R124). -/
def IsPrefixByte (b : Byte) : Prop :=
  b &&& 0xFC#8 = 0x44#8 ∨ b &&& 0xF8#8 = 0x20#8 ∨
  b ∈ [0x90#8, 0x91#8, 0x92#8, 0xA0#8, 0xA1#8, 0xA4#8, 0xB2#8] ∨ b ∈ [0xA2#8, 0xA3#8, 0xC2#8] ∨
  b ∈ [0xB3#8, 0xB4#8, 0xB5#8, 0xC3#8, 0xC4#8, 0xC5#8] ∨ b ∈ [0xB0#8, 0xB1#8, 0xC0#8, 0xC1#8]

/-- Whether a row matches a byte, on natural numbers, which is cheaper to evaluate over all bytes. -/
def someRowMatches (rows : List CodeRow) (b : Byte) : Bool :=
  rows.any fun r => b.toNat &&& r.mask.toNat == r.code.toNat

theorem someRowMatches_iff {rows : List CodeRow} {b : Byte} :
    someRowMatches rows b = true ↔ ∃ r ∈ rows, r.hits b = true := by
  simp only [someRowMatches, List.any_eq_true, CodeRow.hits, beq_iff_eq, ← BitVec.toNat_inj, BitVec.toNat_and]

/-- Every first byte is in the map whatever DD is, or free, or of a prefixed object. -/
theorem firstByte_cases : ∀ b : Byte, someRowMatches plainRows b = true ∨
    (someRowMatches wordRows b = true ∧ someRowMatches byteRows b = true) ∨ isFree b = true ∨ IsPrefixByte b := by
  unfold IsPrefixByte
  decide +kernel

theorem isPrefixByte_of_no_row {dd : Bool} {b : Byte} (hfree : isFree b = false)
    (hrow : ((codeRows dd).find? fun r => r.hits b) = none) : IsPrefixByte b := by
  have hnone {rows : List CodeRow} (hsub : rows ⊆ codeRows dd) : ¬ someRowMatches rows b = true := fun h => by
    obtain ⟨r, hr, hhit⟩ := someRowMatches_iff.1 h
    exact List.find?_eq_none.1 hrow r (hsub hr) hhit
  obtain h | ⟨hword, hbyte⟩ | h | h := firstByte_cases b
  · exact absurd h (hnone (List.subset_append_left _ _))
  · cases dd with
    | true => exact absurd hword (hnone (List.subset_append_right _ _))
    | false => exact absurd hbyte (hnone (List.subset_append_right _ _))
  · rw [hfree] at h
    cases h
  · exact h

/-- The prefixes of `off N8`, `N8` and `±N8[USP]` are decoded with a byte after them. -/
theorem exists_byte_operand {ops : Opcodes} {dd : Bool} {b : Byte} {bs : List Byte}
    (hb : b ∈ [0xB3#8, 0xB4#8, 0xB5#8, 0xC3#8, 0xC4#8, 0xC5#8]) (h : decode ops dd (b :: bs) ≠ .incomplete) :
    ∃ n rest, bs = n :: rest := by
  match bs with
  | n :: rest => exact ⟨n, rest, rfl⟩
  | [] =>
    simp only [List.mem_cons, List.not_mem_nil, or_false] at hb
    obtain rfl | rfl | rfl | rfl | rfl | rfl := hb <;> cases dd <;> exact absurd rfl h

/-- The prefixes of `N16[X1]` and `N16[X2]` are decoded with a word after them. -/
theorem exists_word_operand {ops : Opcodes} {dd : Bool} {b : Byte} {bs : List Byte}
    (hb : b ∈ [0xB0#8, 0xB1#8, 0xC0#8, 0xC1#8]) (h : decode ops dd (b :: bs) ≠ .incomplete) :
    ∃ n rest, bs = wordBytes n ++ rest := by
  match bs with
  | lo :: hi :: rest => exact ⟨mkWord hi lo, rest, by rw [wordBytes_mkWord]; rfl⟩
  | [] | [_] =>
    simp only [List.mem_cons, List.not_mem_nil, or_false] at hb
    obtain rfl | rfl | rfl | rfl := hb <;> cases dd <;> exact absurd rfl h

/-- Bytes that are decoded whole and begin as one of the prefixes begin with the bytes of an object. -/
theorem exists_prefix {ops : Opcodes} {dd : Bool} {b : Byte} {bs : List Byte} (hb : IsPrefixByte b)
    (h : decode ops dd (b :: bs) ≠ .incomplete) :
    (∃ (o : WObj) (rest : List Byte), b :: bs = o.prefixBytes ++ rest) ∨
      (∃ (o : BObj) (rest : List Byte), b :: bs = o.prefixBytes ++ rest) := by
  obtain her | hr | hword | hbyte | hone | htwo := hb
  · exact .inl ⟨.er (b.setWidth 2), bs, by rw [WObj.prefixBytes, or_low_two her]; rfl⟩
  · exact .inr ⟨.r (b.setWidth 3), bs, by rw [BObj.prefixBytes, or_low_three hr]; rfl⟩
  · simp only [List.mem_cons, List.not_mem_nil, or_false] at hword
    obtain rfl | rfl | rfl | rfl | rfl | rfl | rfl := hword
    exacts [.inl ⟨.x1, bs, rfl⟩, .inl ⟨.x2, bs, rfl⟩, .inl ⟨.dp, bs, rfl⟩, .inl ⟨.ssp, bs, rfl⟩, .inl ⟨.usp, bs, rfl⟩,
      .inl ⟨.lrb, bs, rfl⟩, .inl ⟨.dpInd, bs, rfl⟩]
  · simp only [List.mem_cons, List.not_mem_nil, or_false] at hbyte
    obtain rfl | rfl | rfl := hbyte
    exacts [.inr ⟨.pswh, bs, rfl⟩, .inr ⟨.pswl, bs, rfl⟩, .inr ⟨.dpInd, bs, rfl⟩]
  · obtain ⟨n, rest, rfl⟩ := exists_byte_operand hone h
    simp only [List.mem_cons, List.not_mem_nil, or_false] at hone
    obtain rfl | rfl | rfl | rfl | rfl | rfl := hone
    exacts [.inl ⟨.uspInd n, rest, rfl⟩, .inl ⟨.off n, rest, rfl⟩, .inl ⟨.zp n, rest, rfl⟩, .inr ⟨.uspInd n, rest, rfl⟩,
      .inr ⟨.off n, rest, rfl⟩, .inr ⟨.zp n, rest, rfl⟩]
  · obtain ⟨n, rest, rfl⟩ := exists_word_operand htwo h
    simp only [List.mem_cons, List.not_mem_nil, or_false] at htwo
    obtain rfl | rfl | rfl | rfl := htwo
    exacts [.inl ⟨.x1Ind n, rest, rfl⟩, .inl ⟨.x2Ind n, rest, rfl⟩, .inr ⟨.x1Ind n, rest, rfl⟩,
      .inr ⟨.x2Ind n, rest, rfl⟩]

/-! What the decoder reads. -/

theorem decode_free {ops : Opcodes} {dd : Bool} {b : Byte} {bs : List Byte} (h : isFree b = true) :
    decode ops dd (b :: bs) = (freeTail ops dd b).read 1 bs := by
  simp only [decode, h, if_true]

theorem decode_row {ops : Opcodes} {dd : Bool} {b : Byte} {bs : List Byte} {r : CodeRow} (hfree : isFree b = false)
    (h : ((codeRows dd).find? fun r => r.hits b) = some r) : decode ops dd (b :: bs) = (r.make b).read 1 bs := by
  simp only [decode, hfree, h, Bool.false_eq_true, if_false]

/-- Bytes that decode to an instruction begin with its code: by the parameters, by the map, or behind an object. -/
theorem startsWithCode_of_decode {ops : Opcodes} {dd : Bool} {bs : List Byte} {i : Instr} {n : Nat}
    (h : decode ops dd bs = .instr i n) : StartsWithCode ops dd bs i n := by
  match bs with
  | [] => cases h
  | b :: bs =>
    cases hfree : isFree b with
    | true =>
      rw [decode_free hfree] at h
      exact (freeTail_codes ops dd hfree).startsWithCode (by simp) h
    | false =>
      cases hrow : (codeRows dd).find? fun r => r.hits b with
      | some r =>
        have hhit : r.hits b = true := List.find?_some (p := fun r : CodeRow => r.hits b) hrow
        rw [decode_row hfree hrow] at h
        exact (codeRows_codes ops dd r (List.mem_of_find?_eq_some hrow) b hhit).startsWithCode (by simp) h
      | none =>
        have hprefix := isPrefixByte_of_no_row hfree hrow
        obtain ⟨o, rest, heq⟩ | ⟨o, rest, heq⟩ := exists_prefix (bs := bs) hprefix (by rw [h]; nofun)
        · rw [heq, decode_wordPrefix] at h
          rw [heq]
          exact startsWithCode_of_decodeWordSuffix ops dd h
        · rw [heq, decode_bytePrefix] at h
          rw [heq]
          exact startsWithCode_of_decodeByteSuffix ops dd h

/-- Settles O9: the bytes begin with the code of what they decode to, and the length is that of the code. -/
theorem decodedIsEncoding : Obligations.DecodedIsEncoding := by
  intro ops dd bs i n _ h
  obtain ⟨code, rest, rfl, rfl, hone, hsix, hcode⟩ := startsWithCode_of_decode h
  exact ⟨hcode.wellFormed, hcode.dd, by rw [List.take_left]; exact hcode.encode, hone, hsix, by simp⟩

end Sys2Proof
end

section
/-! Proofs that the code of an instruction is read back, whatever follows (spec/30_encoding.md R102, R107), and that a
step runs it. -/

namespace Sys2Proof

/-- What a tail gives is read from its operand bytes, whatever follows them. -/
theorem Tail.Gives.read {t : Tail} {i : Instr} {xs : List Byte} (h : t.Gives i xs) (len : Nat) (rest : List Byte) :
    t.read len (xs ++ rest) = .instr i (len + xs.length) := by
  cases h with
  | word f n => exact congrArg (fun v => Decoded.instr (f v) (len + 2)) (Machine.mkWord_bytes n)
  | _ => rfl

/-! No byte matches two rows of a table (R127, R128). -/

/-- No byte matches two codes, each under its mask, that differ under both masks. -/
def CodesApart (m c m' c' : Byte) : Prop := c.toNat &&& m'.toNat ≠ c'.toNat &&& m.toNat

theorem CodesApart.not_both {m c m' c' : Byte} (hapart : CodesApart m c m' c') (b : Byte) :
    ¬ (b &&& m = c ∧ b &&& m' = c') := by
  rintro ⟨rfl, rfl⟩
  refine hapart ?_
  rw [← BitVec.toNat_and, ← BitVec.toNat_and, BitVec.and_assoc, BitVec.and_assoc, BitVec.and_comm m]

theorem codeRows_apart (dd : Bool) : (codeRows dd).Pairwise fun r q => CodesApart r.mask r.code q.mask q.code := by
  unfold CodesApart
  cases dd <;> decide +kernel

theorem wordSuffixRows_apart : wordSuffixRows.Pairwise fun r q => CodesApart r.mask r.code q.mask q.code := by
  unfold CodesApart
  decide +kernel

theorem byteSuffixRows_apart : byteSuffixRows.Pairwise fun r q => CodesApart r.mask r.code q.mask q.code := by
  unfold CodesApart
  decide +kernel

/-- Of elements of which no two pass a test, the one that passes it is the one found. -/
theorem find?_eq_some_of_pairwise {α : Type} {p : α → Bool} {l : List α} {a : α}
    (hl : l.Pairwise fun x y => ¬ (p x = true ∧ p y = true)) (ha : a ∈ l) (hp : p a = true) : l.find? p = some a := by
  induction l with
  | nil => cases ha
  | cons x l ih =>
    obtain ⟨hx, hl⟩ := List.pairwise_cons.1 hl
    obtain rfl | ha := List.mem_cons.1 ha
    · exact List.find?_cons_of_pos hp
    · rw [List.find?_cons_of_neg fun hpx => hx a ha ⟨hpx, hp⟩]
      exact ih hl ha

/-- A row of the map that matches a byte is the one the decoder finds. -/
theorem codeRows_find? {dd : Bool} {b : Byte} {r : CodeRow} (hr : r ∈ codeRows dd) (hhit : r.hits b = true) :
    ((codeRows dd).find? fun r => r.hits b) = some r := by
  refine find?_eq_some_of_pairwise ((codeRows_apart dd).imp fun hapart => ?_) hr hhit
  simpa only [CodeRow.hits, beq_iff_eq] using hapart.not_both b

/-- A suffix that matches a row which takes the object is read by that row. -/
theorem decodeSuffix_of_row {ω : Type} {rows : List (SuffixRow ω)} {unpaired : ω → Byte → Instr} {len : ω → Nat} {o : ω}
    {b : Byte} {bs : List Byte} {r : SuffixRow ω}
    (hrows : rows.Pairwise fun r q => CodesApart r.mask r.code q.mask q.code) (hr : r ∈ rows)
    (hhit : r.hits o b = true) :
    decodeSuffix rows unpaired len o b bs = (r.make o b).read (len o + 1) bs := by
  have hfind : (rows.find? fun r => r.hits o b) = some r := by
    refine find?_eq_some_of_pairwise (hrows.imp fun hapart ⟨hr, hq⟩ => ?_) hr hhit
    simp only [SuffixRow.hits, Bool.and_eq_true, beq_iff_eq] at hr hq
    exact hapart.not_both b ⟨hr.1, hq.1⟩
  unfold decodeSuffix
  rw [hfind]

/-! The first bytes the parameters claim (R9). -/

/-- What each parameter claims a first byte for (R9, R108). -/
def Opcodes.claims (ops : Opcodes) (dd : Bool) : List (Option Byte × Tail) :=
  [(ops.scal, .byte .scal), (ops.rolA, .none (bif dd then .rolA else .rolbA)),
    (ops.srlA, .none (bif dd then .srlA else .srlbA)), (ops.pushsA, .none .pushsA), (ops.popsA, .none .popsA),
    (ops.popsLrb, .none .popsLrb), (ops.incLrb, .none .incLrb), (ops.decLrb, .none .decLrb)]

/-- Under admitted parameters a claimed byte is free, and the instruction it was claimed for (decision D22). -/
theorem freeTail_of_claim {ops : Opcodes} {dd : Bool} {b : Byte} {t : Tail} (hlegal : ops.legal = true)
    (h : (some b, t) ∈ ops.claims dd) : isFree b = true ∧ freeTail ops dd b = t := by
  obtain ⟨hfree, hapart⟩ := Opcodes.legal_cases hlegal
  simp only [List.pairwise_cons, List.mem_cons, List.not_mem_nil, or_false, forall_eq_or_imp, forall_eq] at hapart
  simp only [Opcodes.claims, List.mem_cons, Prod.mk.injEq, List.not_mem_nil, or_false] at h
  refine ⟨hfree b (Opcodes.mem_codes.2 (by grind)), ?_⟩
  unfold freeTail
  simp only [beq_iff_eq]
  obtain ⟨h, rfl⟩ | ⟨h, rfl⟩ | ⟨h, rfl⟩ | ⟨h, rfl⟩ | ⟨h, rfl⟩ | ⟨h, rfl⟩ | ⟨h, rfl⟩ | ⟨h, rfl⟩ := h <;> grind

theorem freeTail_of_not_mem {ops : Opcodes} {b : Byte} (h : b ∉ ops.codes) (dd : Bool) :
    freeTail ops dd b = .none (.illegal b) := by
  simp only [Opcodes.mem_codes, not_or] at h
  simp [freeTail, h]

/-! Reading a code back. -/

/-- Under admitted parameters the code of `i` decodes to `i`, whatever bytes follow it. -/
def ReadBack (i : Instr) : Prop :=
  ∀ (ops : Opcodes) (dd : Bool) (bs rest : List Byte), ops.legal = true → IsCode ops dd i bs →
    decode ops dd (bs ++ rest) = .instr i bs.length

/-! The kinds of code: in each a row, found by its code `c`, gives the instruction from the operand bytes `xs`. -/

/-- Row `r` of the map matches `c`, which is not free, and gives `i` from `xs`. -/
structure CodeRow.Makes (r : CodeRow) (c : Byte) (i : Instr) (xs : List Byte) : Prop where
  free : isFree c = false
  hits : r.hits c = true
  gives : (r.make c).Gives i xs

/-- Row `r` of a suffix table matches `c`, gives `i` from `xs`, and takes the object if `i` is well formed (R128). -/
structure SuffixRow.Makes {ω : Type} (r : SuffixRow ω) (o : ω) (c : Byte) (i : Instr) (xs : List Byte) : Prop where
  code : (c &&& r.mask == r.code) = true
  gives : (r.make o c).Gives i xs
  takes : ∀ ops : Opcodes, i.wellFormed ops = true → r.takes o = true

/-- The code a row of the map matches is read back, since no other row matches it. -/
theorem ReadBack.ofRow {i : Instr} {c : Byte} {xs : List Byte} {r : CodeRow}
    (he : ∀ ops : Opcodes, encode ops i = some (c :: xs)) (hmakes : r.Makes c i xs)
    (hr : ∀ dd : Bool, (∀ d, i.ddSelect = some d → dd = d) → r ∈ codeRows dd) : ReadBack i := by
  intro ops dd code rest _ hcode
  cases (he ops).symm.trans hcode.encode
  rw [List.cons_append, decode_row hmakes.free (codeRows_find? (hr dd hcode.dd) hmakes.hits), hmakes.gives.read,
    Nat.add_comm]
  rfl

/-- A code of the map that is one instruction whatever DD is (R127). -/
theorem ReadBack.plain {i : Instr} {c : Byte} {xs : List Byte} {r : CodeRow}
    (he : ∀ ops : Opcodes, encode ops i = some (c :: xs)) (hrow : (plainRows.find? fun r => r.code == c) = some r)
    (hmakes : r.Makes c i xs) : ReadBack i :=
  .ofRow he hmakes fun _ _ => List.mem_append_left _ (List.mem_of_find?_eq_some hrow)

/-- Such a code with a number in its low bits (R102). -/
theorem ReadBack.plainNumber {i : Instr} {c k : Byte} {xs : List Byte} {r : CodeRow}
    (he : ∀ ops : Opcodes, encode ops i = some ((c ||| k) :: xs))
    (hrow : (plainRows.find? fun r => r.code == c) = some r) (hmakes : r.Makes (c ||| k) i xs) : ReadBack i :=
  .ofRow he hmakes fun _ _ => List.mem_append_left _ (List.mem_of_find?_eq_some hrow)

theorem mem_codeRows_of_select {i : Instr} {d : Bool} {r : CodeRow} (hdd : i.ddSelect = some d)
    (hr : r ∈ bif d then wordRows else byteRows) (dd : Bool) (h : ∀ d, i.ddSelect = some d → dd = d) :
    r ∈ codeRows dd := by
  rw [h d hdd]
  exact List.mem_append_right _ hr

/-- A code of the map that DD selects on (R108). -/
theorem ReadBack.shared {i : Instr} {c : Byte} {xs : List Byte} {r : CodeRow} (d : Bool) (hdd : i.ddSelect = some d)
    (he : ∀ ops : Opcodes, encode ops i = some (c :: xs))
    (hrow : ((bif d then wordRows else byteRows).find? fun r => r.code == c) = some r) (hmakes : r.Makes c i xs) :
    ReadBack i :=
  .ofRow he hmakes (mem_codeRows_of_select hdd (List.mem_of_find?_eq_some hrow))

/-- Such a code with a number in its low bits (R102). -/
theorem ReadBack.sharedNumber {i : Instr} {c k : Byte} {xs : List Byte} {r : CodeRow} (d : Bool)
    (hdd : i.ddSelect = some d) (he : ∀ ops : Opcodes, encode ops i = some ((c ||| k) :: xs))
    (hrow : ((bif d then wordRows else byteRows).find? fun r => r.code == c) = some r)
    (hmakes : r.Makes (c ||| k) i xs) : ReadBack i :=
  .ofRow he hmakes (mem_codeRows_of_select hdd (List.mem_of_find?_eq_some hrow))

/-- A word object and the suffix a row matches are read back, since no other row matches it. -/
theorem ReadBack.ofWordRow {i : Instr} {o : WObj} {c : Byte} {xs : List Byte} {r : SuffixRow WObj}
    (he : ∀ ops : Opcodes, encode ops i = some (o.prefixBytes ++ c :: xs)) (hr : r ∈ wordSuffixRows)
    (hmakes : r.Makes o c i xs) : ReadBack i := by
  intro ops dd code rest _ hcode
  have hhit : r.hits o c = true := Bool.and_eq_true_iff.2 ⟨hmakes.code, hmakes.takes ops hcode.wellFormed⟩
  cases (he ops).symm.trans hcode.encode
  rw [List.append_assoc, decode_wordPrefix, List.cons_append, decodeWordSuffix_cons,
    decodeSuffix_of_row wordSuffixRows_apart hr hhit, hmakes.gives.read, List.length_append, WObj.prefixBytes_length,
    List.length_cons, Nat.add_assoc, Nat.add_comm 1]

/-- A word object and a suffix (R125, R128). -/
theorem ReadBack.word {i : Instr} {o : WObj} {c : Byte} {xs : List Byte} {r : SuffixRow WObj}
    (he : ∀ ops : Opcodes, encode ops i = some (o.prefixBytes ++ c :: xs))
    (hrow : (wordSuffixRows.find? fun r => r.code == c) = some r) (hmakes : r.Makes o c i xs) : ReadBack i :=
  .ofWordRow he (List.mem_of_find?_eq_some hrow) hmakes

/-- A word object and a suffix with a number in its low bits (R125, R102). -/
theorem ReadBack.wordNumber {i : Instr} {o : WObj} {c k : Byte} {xs : List Byte} {r : SuffixRow WObj}
    (he : ∀ ops : Opcodes, encode ops i = some (o.prefixBytes ++ (c ||| k) :: xs))
    (hrow : (wordSuffixRows.find? fun r => r.code == c) = some r) (hmakes : r.Makes o (c ||| k) i xs) : ReadBack i :=
  .ofWordRow he (List.mem_of_find?_eq_some hrow) hmakes

/-- A byte object and the suffix a row matches are read back, since no other row matches it. -/
theorem ReadBack.ofByteRow {i : Instr} {o : BObj} {c : Byte} {xs : List Byte} {r : SuffixRow BObj}
    (he : ∀ ops : Opcodes, encode ops i = some (o.prefixBytes ++ c :: xs)) (hr : r ∈ byteSuffixRows)
    (hmakes : r.Makes o c i xs) : ReadBack i := by
  intro ops dd code rest _ hcode
  have hhit : r.hits o c = true := Bool.and_eq_true_iff.2 ⟨hmakes.code, hmakes.takes ops hcode.wellFormed⟩
  cases (he ops).symm.trans hcode.encode
  rw [List.append_assoc, decode_bytePrefix, List.cons_append, decodeByteSuffix_cons,
    decodeSuffix_of_row byteSuffixRows_apart hr hhit, hmakes.gives.read, List.length_append, BObj.prefixBytes_length,
    List.length_cons, Nat.add_assoc, Nat.add_comm 1]

/-- A byte object and a suffix (R126, R128). -/
theorem ReadBack.byte {i : Instr} {o : BObj} {c : Byte} {xs : List Byte} {r : SuffixRow BObj}
    (he : ∀ ops : Opcodes, encode ops i = some (o.prefixBytes ++ c :: xs))
    (hrow : (byteSuffixRows.find? fun r => r.code == c) = some r) (hmakes : r.Makes o c i xs) : ReadBack i :=
  .ofByteRow he (List.mem_of_find?_eq_some hrow) hmakes

/-- A byte object and a suffix with a number in its low bits (R126, R102). -/
theorem ReadBack.byteNumber {i : Instr} {o : BObj} {c k : Byte} {xs : List Byte} {r : SuffixRow BObj}
    (he : ∀ ops : Opcodes, encode ops i = some (o.prefixBytes ++ (c ||| k) :: xs))
    (hrow : (byteSuffixRows.find? fun r => r.code == c) = some r) (hmakes : r.Makes o (c ||| k) i xs) : ReadBack i :=
  .ofByteRow he (List.mem_of_find?_eq_some hrow) hmakes

/-- A byte that the parameter `get` sets (spec/00_scope.md R9). -/
theorem ReadBack.parameter {i : Instr} {xs : List Byte} {t : Tail} (get : Opcodes → Option Byte)
    (he : ∀ ops : Opcodes, encode ops i = (get ops).map fun c => c :: xs) (hgives : t.Gives i xs)
    (hclaim : ∀ (ops : Opcodes) (dd : Bool), (∀ d, i.ddSelect = some d → dd = d) → (get ops, t) ∈ ops.claims dd) :
    ReadBack i := by
  intro ops dd code rest hlegal hcode
  have henc := hcode.encode
  rw [he] at henc
  obtain ⟨b, hget, rfl⟩ := Option.map_eq_some_iff.1 henc
  have hb := hclaim ops dd hcode.dd
  rw [hget] at hb
  obtain ⟨hfree, htail⟩ := freeTail_of_claim hlegal hb
  rw [List.cons_append, decode_free hfree, htail, hgives.read, Nat.add_comm]
  rfl

/-- A word object with a suffix that makes no instruction (R135). -/
theorem readBack_wordUnpaired (o : WObj) (b : Byte) : ReadBack (o.unpaired b) := by
  intro ops dd code rest _ hcode
  have hwf := hcode.wellFormed
  rw [o.wellFormed_unpaired, Bool.not_eq_true'] at hwf
  cases (o.encode_unpaired ops b).symm.trans hcode.encode
  rw [List.append_assoc, decode_wordPrefix, List.singleton_append, decodeWordSuffix_cons, decodeSuffix_of_no_row hwf,
    List.length_append, WObj.prefixBytes_length]
  rfl

/-- A byte object with a suffix that makes no instruction (R135). -/
theorem readBack_byteUnpaired (o : BObj) (b : Byte) : ReadBack (o.unpaired b) := by
  intro ops dd code rest _ hcode
  have hwf := hcode.wellFormed
  rw [o.wellFormed_unpaired, Bool.not_eq_true'] at hwf
  cases (o.encode_unpaired ops b).symm.trans hcode.encode
  rw [List.append_assoc, decode_bytePrefix, List.singleton_append, decodeByteSuffix_cons, decodeSuffix_of_no_row hwf,
    List.length_append, BObj.prefixBytes_length]
  rfl

/-- A free byte no parameter claims (R135). -/
theorem readBack_illegal (b : Byte) : ReadBack (.illegal b) := by
  intro ops dd code rest _ hcode
  cases hcode.encode
  have hwf : (isFree b && !ops.codes.contains b) = true := hcode.wellFormed
  simp only [Bool.and_eq_true, Bool.not_eq_true', List.contains_eq_mem, decide_eq_false_iff_not] at hwf
  obtain ⟨hfree, hunclaimed⟩ := hwf
  exact (decode_free hfree).trans (by rw [freeTail_of_not_mem hunclaimed]; rfl)

/-- The code of every instruction is read back: each stands in its table once, with its own code and operands. -/
theorem readBack (i : Instr) : ReadBack i := by
  cases i with
  -- Codes of the first-byte map (R127)
  | lX1 | lX2 | lDp | lDpInd | lbDpInd | movX1A | movX2A | movDpA | clrA | clrbA | pushsLrb | incX1 | incX2 | incDp
  | decX1 | decX2 | decDp | daa | das | extnd | rt | rti | sc | rc | brk | nop =>
    exact .plain (fun _ => rfl) rfl ⟨rfl, rfl, .none _⟩
  | lUspInd n | lOff n | lZp n | lbImm n | lbUspInd n | lbOff n | lbZp n | xnblAOff n | sj n | jcGt n | jcEq n | jcLt n
  | jcGe n | jcNe n | jcLe n | jrnz n => exact .plain (fun _ => rfl) rfl ⟨rfl, rfl, .byte _ n⟩
  | lImm n | lX1Ind n | lX2Ind n | lbX1Ind n | lbX2Ind n | movX1Imm n | movX2Imm n | movDpImm n | movLrbImm n | jAddr n
  | calAddr n => exact .plain (fun _ => rfl) rfl ⟨rfl, rfl, .word _ n⟩
  | lEr r =>
    refine .plainNumber (fun _ => rfl) rfl ?_
    rcases bitVec2_cases r with rfl | rfl | rfl | rfl <;> exact ⟨rfl, rfl, .none _⟩
  | lbR r | incbR r | decbR r | vcal r =>
    refine .plainNumber (fun _ => rfl) rfl ?_
    rcases bitVec3_cases r with rfl | rfl | rfl | rfl | rfl | rfl | rfl | rfl <;> exact ⟨rfl, rfl, .none _⟩
  | movbRImm r n =>
    refine .plainNumber (fun _ => rfl) rfl ?_
    rcases bitVec3_cases r with rfl | rfl | rfl | rfl | rfl | rfl | rfl | rfl <;> exact ⟨rfl, rfl, .byte _ n⟩
  | jbs bit n rel | jbr bit n rel =>
    refine .plainNumber (fun _ => rfl) rfl ?_
    rcases bitVec3_cases bit with rfl | rfl | rfl | rfl | rfl | rfl | rfl | rfl <;> exact ⟨rfl, rfl, .bytes _ n rel⟩
  -- Shared codes (R108)
  | stDpInd | swap | rorA | sllA | sraA => exact .shared true rfl (fun _ => rfl) rfl ⟨rfl, rfl, .none _⟩
  | stbDpInd | swapb | rorbA | sllbA | srabA => exact .shared false rfl (fun _ => rfl) rfl ⟨rfl, rfl, .none _⟩
  | stUspInd n | stOff n | stZp n | addAOff n | adcAOff n | subAOff n | sbcAOff n | cmpAOff n | andAOff n | orAOff n
  | xorAOff n => exact .shared true rfl (fun _ => rfl) rfl ⟨rfl, rfl, .byte _ n⟩
  | stbUspInd n | stbOff n | stbZp n | addbAImm n | adcbAImm n | subbAImm n | sbcbAImm n | cmpbAImm n | andbAImm n
  | orbAImm n | xorbAImm n | addbAOff n | adcbAOff n | subbAOff n | sbcbAOff n | cmpbAOff n | andbAOff n | orbAOff n
  | xorbAOff n => exact .shared false rfl (fun _ => rfl) rfl ⟨rfl, rfl, .byte _ n⟩
  | stX1Ind n | stX2Ind n | addAImm n | adcAImm n | subAImm n | sbcAImm n | cmpAImm n | andAImm n | orAImm n
  | xorAImm n => exact .shared true rfl (fun _ => rfl) rfl ⟨rfl, rfl, .word _ n⟩
  | stbX1Ind n | stbX2Ind n => exact .shared false rfl (fun _ => rfl) rfl ⟨rfl, rfl, .word _ n⟩
  | stEr r | addAEr r | adcAEr r | subAEr r | sbcAEr r | cmpAEr r | andAEr r | orAEr r =>
    refine .sharedNumber true rfl (fun _ => rfl) rfl ?_
    rcases bitVec2_cases r with rfl | rfl | rfl | rfl <;> exact ⟨rfl, rfl, .none _⟩
  | stbR r | addbAR r | adcbAR r | subbAR r | sbcbAR r | cmpbAR r | andbAR r | orbAR r =>
    refine .sharedNumber false rfl (fun _ => rfl) rfl ?_
    rcases bitVec3_cases r with rfl | rfl | rfl | rfl | rfl | rfl | rfl | rfl <;> exact ⟨rfl, rfl, .none _⟩
  -- A word object and a suffix (R125)
  | movAObj o | movObjA o | movX1Obj o | movX2Obj o | movDpObj o | movUspObj o | movSspObj o | movLrbObj o | movPswObj o
  | clrObj o | xchgAObj o | rolObj o | rorObj o | sllObj o | srlObj o | sraObj o | incObj o | decObj o | lcInd o
  | lcbInd o | cmpcInd o | cmpcbInd o | addAObj o | adcAObj o | subAObj o | sbcAObj o | cmpAObj o | andAObj o | orAObj o
  | xorAObj o | addObjA o | adcObjA o | subObjA o | sbcObjA o | cmpObjA o | andObjA o | orObjA o | xorObjA o | jObj o
  | calObj o =>
    exact .word (o := o) (fun _ => rfl) rfl ⟨rfl, .none _, fun _ h => h⟩
  | mul | div => exact .word (o := .x1) (fun _ => rfl) rfl ⟨rfl, .none _, fun _ h => h⟩
  | movErObj r o =>
    refine .wordNumber (o := o) (fun _ => rfl) rfl ?_
    rcases bitVec2_cases r with rfl | rfl | rfl | rfl <;> exact ⟨rfl, .none _, fun _ h => h⟩
  | movOffObj n o | addObjOff o n | adcObjOff o n | subObjOff o n | sbcObjOff o n | cmpObjOff o n | andObjOff o n
  | orObjOff o n | xorObjOff o n => exact .word (o := o) (fun _ => rfl) rfl ⟨rfl, .byte _ n, fun _ h => h⟩
  | movObjImm o n | lcBased o n | lcbBased o n | cmpcBased o n | cmpcbBased o n | addObjImm o n | adcObjImm o n
  | subObjImm o n | sbcObjImm o n | cmpObjImm o n | andObjImm o n | orObjImm o n | xorObjImm o n =>
    exact .word (o := o) (fun _ => congrArg some (List.append_assoc _ _ _)) rfl ⟨rfl, .word _ n, fun _ h => h⟩
  | lcDirect n | lcbDirect n | cmpcDirect n | cmpcbDirect n =>
    exact .word (o := .x1) (fun _ => rfl) rfl ⟨rfl, .word _ n, fun _ h => h⟩
  -- A byte object and a suffix (R126)
  | movbAObj o | movbObjA o | movbPswhObj o | movbPswlObj o | clrbObj o | xchgbAObj o | rolbObj o | rorbObj o
  | sllbObj o | srlbObj o | srabObj o | incbObj o | decbObj o | addbAObj o | adcbAObj o | subbAObj o | sbcbAObj o
  | cmpbAObj o | andbAObj o | orbAObj o | xorbAObj o | addbObjA o | adcbObjA o | subbObjA o | sbcbObjA o | cmpbObjA o
  | andbObjA o | orbObjA o | xorbObjA o | sbrObj o | rbrObj o | tbrObj o | mbrCObj o | mbrObjC o =>
    exact .byte (o := o) (fun _ => rfl) rfl ⟨rfl, .none _, fun _ h => h⟩
  | mulb | divb => exact .byte (o := .pswh) (fun _ => rfl) rfl ⟨rfl, .none _, fun _ h => h⟩
  | movbRObj r o | sbBit o r | rbBit o r | mbCBit o r | mbBitC o r =>
    refine .byteNumber (o := o) (fun _ => rfl) rfl ?_
    rcases bitVec3_cases r with rfl | rfl | rfl | rfl | rfl | rfl | rfl | rfl <;> exact ⟨rfl, .none _, fun _ h => h⟩
  | movbOffObj n o | movbObjImm o n | addbObjOff o n | adcbObjOff o n | subbObjOff o n | sbcbObjOff o n | cmpbObjOff o n
  | andbObjOff o n | orbObjOff o n | xorbObjOff o n | addbObjImm o n | adcbObjImm o n | subbObjImm o n | sbcbObjImm o n
  | cmpbObjImm o n | andbObjImm o n | orbObjImm o n | xorbObjImm o n =>
    exact .byte (o := o) (fun _ => rfl) rfl ⟨rfl, .byte _ n, fun _ h => h⟩
  -- An unpaired object, and an illegal byte (R135)
  | wpEr r b => exact readBack_wordUnpaired (.er r) b
  | wpX1 b => exact readBack_wordUnpaired .x1 b
  | wpX2 b => exact readBack_wordUnpaired .x2 b
  | wpDp b => exact readBack_wordUnpaired .dp b
  | wpSsp b => exact readBack_wordUnpaired .ssp b
  | wpUsp b => exact readBack_wordUnpaired .usp b
  | wpLrb b => exact readBack_wordUnpaired .lrb b
  | wpX1Ind n b => exact readBack_wordUnpaired (.x1Ind n) b
  | wpX2Ind n b => exact readBack_wordUnpaired (.x2Ind n) b
  | wpDpInd b => exact readBack_wordUnpaired .dpInd b
  | wpUspInd n b => exact readBack_wordUnpaired (.uspInd n) b
  | wpOff n b => exact readBack_wordUnpaired (.off n) b
  | wpZp n b => exact readBack_wordUnpaired (.zp n) b
  | bpR r b => exact readBack_byteUnpaired (.r r) b
  | bpPswh b => exact readBack_byteUnpaired .pswh b
  | bpPswl b => exact readBack_byteUnpaired .pswl b
  | bpX1Ind n b => exact readBack_byteUnpaired (.x1Ind n) b
  | bpX2Ind n b => exact readBack_byteUnpaired (.x2Ind n) b
  | bpDpInd b => exact readBack_byteUnpaired .dpInd b
  | bpUspInd n b => exact readBack_byteUnpaired (.uspInd n) b
  | bpOff n b => exact readBack_byteUnpaired (.off n) b
  | bpZp n b => exact readBack_byteUnpaired (.zp n) b
  | illegal b => exact readBack_illegal b
  -- The codes the parameters set (R9)
  | scal rel => exact .parameter Opcodes.scal (fun _ => rfl) (.byte .scal rel) fun _ _ _ => by simp [Opcodes.claims]
  | pushsA => exact .parameter Opcodes.pushsA (fun _ => rfl) (.none _) fun _ _ _ => by simp [Opcodes.claims]
  | popsA => exact .parameter Opcodes.popsA (fun _ => rfl) (.none _) fun _ _ _ => by simp [Opcodes.claims]
  | popsLrb => exact .parameter Opcodes.popsLrb (fun _ => rfl) (.none _) fun _ _ _ => by simp [Opcodes.claims]
  | incLrb => exact .parameter Opcodes.incLrb (fun _ => rfl) (.none _) fun _ _ _ => by simp [Opcodes.claims]
  | decLrb => exact .parameter Opcodes.decLrb (fun _ => rfl) (.none _) fun _ _ _ => by simp [Opcodes.claims]
  | rolA =>
    exact .parameter Opcodes.rolA (fun _ => rfl) (.none _) fun _ _ hdd => by simp [Opcodes.claims, hdd true rfl]
  | rolbA =>
    exact .parameter Opcodes.rolA (fun _ => rfl) (.none _) fun _ _ hdd => by simp [Opcodes.claims, hdd false rfl]
  | srlA =>
    exact .parameter Opcodes.srlA (fun _ => rfl) (.none _) fun _ _ hdd => by simp [Opcodes.claims, hdd true rfl]
  | srlbA =>
    exact .parameter Opcodes.srlA (fun _ => rfl) (.none _) fun _ _ hdd => by simp [Opcodes.claims, hdd false rfl]

/-- Settles O8: the case of the instruction in `readBack`, its code given piece by piece. -/
theorem decodeEncode : Obligations.DecodeEncode :=
  fun ops dd i bs rest hlegal hwf hdd he => readBack i ops dd bs rest hlegal ⟨hwf, hdd, he⟩

end Sys2Proof

namespace Sys2Proof.Machine

/-! A step on an encoded instruction. -/

/-- Where the code of an instruction stands at PC it is fetched, since no code is longer than a fetch (R100). -/
theorem fetch_of_isCode {s : State} {i : Instr} {bs : List Byte} (hlegal : s.cfg.opcodes.legal = true)
    (hcode : IsCode s.cfg.opcodes s.dd i bs) (hbytes : fetchBytes s.rom s.pc.toNat bs.length = bs) :
    fetch s = .instr i bs.length := by
  have hread (rest : List Byte) : decode s.cfg.opcodes s.dd (bs ++ rest) = .instr i bs.length :=
    readBack i _ _ bs rest hlegal hcode
  obtain ⟨_, _, _, _, _, hsix, _⟩ := startsWithCode_of_decode (hread [])
  have hsplit := fetchBytes_append s.rom bs.length (6 - bs.length) s.pc.toNat (by rw [hbytes])
  rw [hbytes, Nat.add_sub_cancel' hsix] at hsplit
  unfold fetch
  rw [hsplit]
  exact hread _

/-- Settles O7: the code is fetched whole and read back, whatever follows it in program memory. -/
theorem stepRunsEncoded : Obligations.StepRunsEncoded :=
  fun _ _ _ hlegal hwf hdd he hbytes hdue => step_of_fetch hdue (fetch_of_isCode hlegal ⟨hwf, hdd, he⟩ hbytes)

end Sys2Proof.Machine
end

section
/-! Proofs about the codes that are refused: those of no instruction (spec/30_encoding.md R135) and those that DD rules
out (R108, R137). -/

namespace Sys2Proof.Machine

/-! Codes that are no instruction. -/

theorem illegalCode_of_refuse {s : State} (h : s.cfg.illegalOpcode = .refuse) :
    illegalCode s = refuse .illegalCode := by
  unfold illegalCode
  rw [h]

theorem illegalCode_of_optrap {s : State} (h : s.cfg.illegalOpcode = .optrap) :
    illegalCode s = takeReset .opcodeTrap s := by
  unfold illegalCode
  rw [h]

/-- Settles O57: every row is the illegal code's one meaning, a refusal or a reset through 0004H. -/
theorem illegalCodes : Obligations.IllegalCodes := by
  intro s e r n d sfx lo hi i hi'
  have hexec : exec i s = outcome (illegalCode s) := by
    simp only [List.mem_cons, List.not_mem_nil, or_false] at hi'
    obtain rfl | rfl | rfl | rfl | rfl | rfl | rfl | rfl | rfl | rfl | rfl | rfl | rfl | rfl | rfl | rfl | rfl | rfl |
      rfl | rfl | rfl | rfl | rfl := hi' <;> rfl
  rw [hexec]
  refine ⟨fun hrefuse => by rw [illegalCode_of_refuse hrefuse, outcome_refuse], fun htrap hlo hhi => ?_⟩
  rw [illegalCode_of_optrap htrap, takeReset_ok hlo hhi]
  refine ⟨_, rfl, rfl, resetProcessing_dd s, rfl, rfl, rfl, fun hkeeps => ?_⟩
  exact (resetProcessing_ram s).trans (by rw [hkeeps]; rfl)

/-! Refusals by DD (R108, R137). -/

theorem aluAObjW_refused (op : AluOp) (o : WObj) {s : State} (h : s.dd = false) :
    aluAObjW op o s = .refused .ddMismatch := by
  unfold aluAObjW
  rw [h]
  rfl

theorem aluAObjB_refused (op : AluOp) (o : BObj) {s : State} (h : s.dd = true) :
    aluAObjB op o s = .refused .ddMismatch := by
  unfold aluAObjB
  rw [h]
  rfl

theorem exchangeW_refused (o : WObj) {s : State} (h : s.dd = false) : execXchgAObj o s = .refused .ddMismatch := by
  unfold execXchgAObj
  rw [h]
  rfl

theorem exchangeB_refused (o : BObj) {s : State} (h : s.dd = true) : execXchgbAObj o s = .refused .ddMismatch := by
  unfold execXchgbAObj
  rw [h]
  rfl

/-- A shared code naming er4 to er7 names no register when DD = 1. -/
theorem decode_noWordRegister (ops : Opcodes) {b : Byte} (bs : List Byte)
    (h : b &&& 0xFC#8 ∈ [0x8C#8, 0x0C#8, 0x1C#8, 0x2C#8, 0x3C#8, 0x4C#8, 0x5C#8, 0x6C#8]) :
    decode ops true (b :: bs) = .noWordRegister := by
  have hb : b &&& 0xFC#8 ||| (b.setWidth 2).setWidth 8 = b := or_low_two rfl
  generalize b &&& 0xFC#8 = c at h hb
  generalize b.setWidth 2 = r at hb
  subst hb
  simp only [List.mem_cons, List.not_mem_nil, or_false] at h
  obtain rfl | rfl | rfl | rfl | rfl | rfl | rfl | rfl := h <;>
    rcases bitVec2_cases r with rfl | rfl | rfl | rfl <;> rfl

theorem step_of_noWordRegister {s : State} (hdue : s.due = none) (h : fetch s = .noWordRegister) :
    step s = .refused .noWordRegister := by
  rw [step_of_none_due hdue]
  unfold runInstruction
  rw [fetch_passBoundary, h]
  rfl

/-- Settles O58: each prefixed form tests DD first, and the codes of er4 to er7 have rows that name no register. -/
theorem dataDescriptorRefusals : Obligations.DataDescriptorRefusals := by
  refine ⟨fun s o p i => ⟨fun hdd hi => ?_, fun hdd hi => ?_⟩, fun ops b bs h => decode_noWordRegister ops bs h,
    fun s hdue hf => step_of_noWordRegister hdue hf⟩
  · simp only [List.mem_cons, List.not_mem_nil, or_false] at hi
    obtain rfl | rfl | rfl | rfl | rfl | rfl | rfl | rfl | rfl := hi
    exacts [aluAObjW_refused .add o hdd, aluAObjW_refused .adc o hdd, aluAObjW_refused .sub o hdd,
      aluAObjW_refused .sbc o hdd, aluAObjW_refused .cmp o hdd, aluAObjW_refused .and o hdd,
      aluAObjW_refused .or o hdd, aluAObjW_refused .xor o hdd, exchangeW_refused o hdd]
  · simp only [List.mem_cons, List.not_mem_nil, or_false] at hi
    obtain rfl | rfl | rfl | rfl | rfl | rfl | rfl | rfl | rfl := hi
    exacts [aluAObjB_refused .add p hdd, aluAObjB_refused .adc p hdd, aluAObjB_refused .sub p hdd,
      aluAObjB_refused .sbc p hdd, aluAObjB_refused .cmp p hdd, aluAObjB_refused .and p hdd,
      aluAObjB_refused .or p hdd, aluAObjB_refused .xor p hdd, exchangeB_refused p hdd]

end Sys2Proof.Machine
end

section
/-! Proofs about the loads of A and of PSW (spec/40_data_transfer.md R151, R152, R161, R183, R191, R205, R207).
Theorems stand under `DataTransfer` where the model's own function has the name of the obligation. -/

namespace Sys2Proof.Machine

/-- An operation that reads a value and then makes an update that leaves PC ends at the next instruction. -/
theorem finish_read {α : Type} {s : State} {x : Res α} {a : α} {n : Nat} (hx : x = .ok a) (f : α → State)
    (hf : (f a).pc = s.pc) (hpc : s.pc.toNat + n ≤ 0xFFFF) :
    finish n (x >>= fun a => .ok (f a)) = .next ((f a).setPc (s.pc + BitVec.ofNat 16 n)) :=
  finish_next (by rw [hx, Res.bind_ok]) hf hpc

theorem loadWord_next {s : State} {o : WObj} {v : Word} {n : Nat} (hv : loadW s o = .ok v)
    (hpc : s.pc.toNat + n ≤ 0xFFFF) : loadWord n o s = .next ((s.loadA v).setPc (s.pc + BitVec.ofNat 16 n)) :=
  finish_read hv s.loadA rfl hpc

theorem loadByte_next {s : State} {o : BObj} {v : Byte} {n : Nat} (hv : loadB s o = .ok v)
    (hpc : s.pc.toNat + n ≤ 0xFFFF) : loadByte n o s = .next ((s.loadAl v).setPc (s.pc + BitVec.ofNat 16 n)) :=
  finish_read hv s.loadAl rfl hpc

/-- What holds of every entry of a list of forms holds of the one that is met. -/
theorem of_mem_forms {α β : Type} {forms : List (Instr × α × β)} {i : Instr} {a : α} {b : β}
    (P : Instr → α → β → Prop) (hi : (i, a, b) ∈ forms) (h : ∀ x ∈ forms, P x.1 x.2.1 x.2.2) : P i a b := h _ hi

/-- Settles O16: every form is `State.loadA` of its value. -/
theorem DataTransfer.loadWord : Obligations.LoadWord := by
  intro s n v d e i len hlegal hpc hi
  have hexec : exec i s = .next ((s.loadA v).setPc (s.pc + BitVec.ofNat 16 len)) := by
    obtain ⟨o, hi, hv⟩ | hi := hi
    · have hform : exec i s = Machine.loadWord len o s := by
        refine of_mem_forms (fun i o len => exec i s = Machine.loadWord len o s) hi ?_
        simp only [List.forall_mem_cons, List.not_mem_nil, false_imp_iff, implies_true, and_true]
        exact ⟨rfl, rfl, rfl, rfl, rfl, rfl, rfl, rfl, rfl, rfl⟩
      exact hform.trans (loadWord_next hv hpc)
    · have hform : exec i s = finish len (.ok (s.loadA v)) := by
        refine of_mem_forms (fun i v len => exec i s = finish len (.ok (s.loadA v))) hi ?_
        simp only [List.forall_mem_cons, List.not_mem_nil, false_imp_iff, implies_true, and_true]
        exact ⟨rfl, rfl⟩
      exact hform.trans (finish_next rfl rfl hpc)
  obtain ⟨ha, hdd, hzf, -, hchanges⟩ := loadA_spec s v hlegal.apart
  exact ⟨_, hexec, ha, hdd, hzf, rfl, hchanges.setPc _⟩

/-- Settles O17: every form is `State.loadAl` of its value. -/
theorem DataTransfer.loadByte : Obligations.LoadByte := by
  intro s n d v r i len hlegal hpc hi
  have hexec : exec i s = .next ((s.loadAl v).setPc (s.pc + BitVec.ofNat 16 len)) := by
    obtain ⟨o, hi, hv⟩ | hi := hi
    · have hform : exec i s = Machine.loadByte len o s := by
        refine of_mem_forms (fun i o len => exec i s = Machine.loadByte len o s) hi ?_
        simp only [List.forall_mem_cons, List.not_mem_nil, false_imp_iff, implies_true, and_true]
        exact ⟨rfl, rfl, rfl, rfl, rfl, rfl, rfl⟩
      exact hform.trans (loadByte_next hv hpc)
    · have hform : exec i s = finish len (.ok (s.loadAl v)) := by
        refine of_mem_forms (fun i v len => exec i s = finish len (.ok (s.loadAl v))) hi ?_
        simp only [List.forall_mem_cons, List.not_mem_nil, false_imp_iff, implies_true, and_true]
        exact ⟨rfl, rfl⟩
      exact hform.trans (finish_next rfl rfl hpc)
  obtain ⟨hal, hdd, hzf, -, hchanges⟩ := loadAl_spec s v hlegal.apart
  exact ⟨_, hexec, hal, hdd, hzf, rfl, hchanges.setPc _⟩

/-- Settles O18: A, AL or PSW takes the value read, and for A and AL then DD is written. -/
theorem moveToAccumulatorOrPsw : Obligations.MoveToAccumulatorOrPsw := by
  refine fun s => ⟨fun o v hv hpc => ?_, fun o b hb hpc => ?_, fun v o hpc hv => ?_⟩
  · exact ⟨_, finish_read hv (fun v => (s.setA v).setDd true) rfl hpc, rfl, State.dd_setDd _ true, rfl,
      ((changes_setA s v []).comp (changes_setDd _ true [])).setPc _⟩
  · exact ⟨_, finish_read hb (fun b => (s.setAl b).setDd false) rfl hpc, State.al_setAl s b, State.dd_setDd _ false,
      rfl, ((changes_setAl s b []).comp (changes_setDd _ false [])).setPc _⟩
  · exact ⟨_, finish_read hv (s.setReg .psw) rfl hpc, rfl, rfl, rfl, rfl, (changes_setReg s .psw v []).setPc _⟩

end Sys2Proof.Machine
end

section
/-! Proofs about the stores and moves to an object (spec/40_data_transfer.md R153, R154, R162 to R171, R192 to R195,
R201, R202, R206, R208). -/

namespace Sys2Proof.Machine

/-! A store to an object ends at the next instruction. -/

/-- A store to a word object whose location can be written is what `WroteW` says of it, and then PC moves on. -/
theorem finish_storeW {s : State} {o : WObj} {l : WLoc} {n : Nat} (v : Word) (hpc : s.pc.toNat + n ≤ 0xFFFF)
    (hl : wordLoc s o = .ok l) (hacc : l.accessible s.cfg = true) :
    ∃ t, finish n (storeW s o v) = .next t ∧ readW t l = .ok (v &&& l.mask s.cfg) ∧
      t.pc = s.pc + BitVec.ofNat 16 n ∧ Changes s t (l.touches s.cfg) l.bytes := by
  obtain ⟨t, ht⟩ := writeW_total v hacc
  have hwrote := writeW_wrote ht
  have hstore : storeW s o v = .ok t := by
    unfold storeW
    rw [hl, Res.bind_ok, ht]
  exact ⟨_, finish_next hstore hwrote.pc hpc, (readW_setPc t _ l).trans hwrote.value, rfl, hwrote.changes.setPc _⟩

/-- A store to a byte object whose location can be written is what `WroteB` says of it, and then PC moves on. -/
theorem finish_storeB {s : State} {o : BObj} {l : BLoc} {n : Nat} (v : Byte) (hpc : s.pc.toNat + n ≤ 0xFFFF)
    (hl : byteLoc s o = .ok l) (hacc : l.accessible s.cfg = true) :
    ∃ t, finish n (storeB s o v) = .next t ∧ readB t l = .ok (v &&& l.mask s.cfg) ∧
      t.pc = s.pc + BitVec.ofNat 16 n ∧ Changes s t (l.touches s.cfg) l.bytes := by
  obtain ⟨t, ht⟩ := writeB_total v hacc
  have hwrote := writeB_wrote ht
  have hstore : storeB s o v = .ok t := by
    unfold storeB
    rw [hl, Res.bind_ok, ht]
  exact ⟨_, finish_next hstore hwrote.pc hpc, (readB_setPc t _ l).trans hwrote.value, rfl, hwrote.changes.setPc _⟩

/-! The code of ST and STB, which DD chooses between (R108, R153, R154). -/

theorem storeAcc_word {s : State} (hdd : s.dd = true) (n : Nat) (ow : WObj) (ob : BObj) :
    storeAcc n ow ob s = finish n (storeW s ow s.a) := congrArg (finish n) (if_pos hdd)

theorem storeAcc_byte {s : State} (hdd : s.dd = false) (n : Nat) (ow : WObj) (ob : BObj) :
    storeAcc n ow ob s = finish n (storeB s ob s.al) := congrArg (finish n) (if_neg (by simp [hdd]))

theorem execStbR_word {s : State} (hdd : s.dd = true) (e : BitVec 2) :
    execStbR (e.setWidth 3) s = finish 1 (storeW s (.er e) s.a) := by
  unfold execStbR
  rw [if_pos hdd, wordRegister_setWidth, Res.bind_ok]

theorem execStbR_byte {s : State} (hdd : s.dd = false) (r : BitVec 3) :
    execStbR r s = finish 1 (storeB s (.r r) s.al) := congrArg (finish 1) (if_neg (by simp [hdd]))

/-- Settles O19: under the DD given, every form is a store of A or of AL. -/
theorem storeAccumulator : Obligations.StoreAccumulator := by
  refine ⟨fun s n d e i o len l hi hdd hpc hl hacc => ?_, fun s n d r e i o len l hi hdd hpc hl hacc => ?_⟩
  · have hexec : exec i s = finish len (storeW s o s.a) := by
      refine of_mem_forms (fun i o len => exec i s = finish len (storeW s o s.a)) hi ?_
      simp only [List.forall_mem_cons, List.not_mem_nil, false_imp_iff, implies_true, and_true]
      have word := storeAcc_word hdd
      exact ⟨word _ _ _, execStbR_word hdd e, word _ _ _, word _ _ _, word _ _ _, word _ _ _, word _ _ _, word _ _ _,
        word _ _ _, word _ _ _, word _ _ _, word _ _ _, word _ _ _, word _ _ _⟩
    rw [hexec]
    exact finish_storeW s.a hpc hl hacc
  · have hexec : exec i s = finish len (storeB s o s.al) := by
      refine of_mem_forms (fun i o len => exec i s = finish len (storeB s o s.al)) hi ?_
      simp only [List.forall_mem_cons, List.not_mem_nil, false_imp_iff, implies_true, and_true]
      have byte := storeAcc_byte hdd
      exact ⟨execStbR_byte hdd r, byte _ _ _, byte _ _ _, byte _ _ _, byte _ _ _, byte _ _ _, byte _ _ _, byte _ _ _,
        byte _ _ _, byte _ _ _, byte _ _ _, byte _ _ _, byte _ _ _, byte _ _ _⟩
    rw [hexec]
    exact finish_storeB s.al hpc hl hacc

/-- Settles O20: every form is a store of its value to its word object. -/
theorem storeWordObject : Obligations.StoreWordObject := by
  intro s n v i o dst len l hi hpc hl hacc
  have hexec : exec i s = finish len (storeW s dst v) := by
    refine of_mem_forms (b := (v, len)) (fun i dst x => exec i s = finish x.2 (storeW s dst x.1)) hi ?_
    simp only [List.forall_mem_cons, List.not_mem_nil, false_imp_iff, implies_true, and_true]
    exact ⟨rfl, rfl, rfl, rfl, rfl, rfl, rfl, rfl, rfl, rfl⟩
  rw [hexec]
  exact finish_storeW v hpc hl hacc

/-- Settles O21: every form is a store of its value to its byte object. -/
theorem storeByteObject : Obligations.StoreByteObject := by
  intro s n v r i o dst len l hi hpc hl hacc
  have hexec : exec i s = finish len (storeB s dst v) := by
    refine of_mem_forms (b := (v, len)) (fun i dst x => exec i s = finish x.2 (storeB s dst x.1)) hi ?_
    simp only [List.forall_mem_cons, List.not_mem_nil, false_imp_iff, implies_true, and_true]
    exact ⟨rfl, rfl, rfl, rfl⟩
  rw [hexec]
  exact finish_storeB v hpc hl hacc

/-! Moves between objects. -/

theorem moveWord_of_load {s : State} {o : WObj} {v : Word} (hv : loadW s o = .ok v) (n : Nat) (dst : WObj) :
    moveWord n o dst s = finish n (storeW s dst v) := by
  unfold moveWord
  rw [hv, Res.bind_ok]

theorem moveByte_of_load {s : State} {o : BObj} {v : Byte} (hv : loadB s o = .ok v) (n : Nat) (dst : BObj) :
    moveByte n o dst s = finish n (storeB s dst v) := by
  unfold moveByte
  rw [hv, Res.bind_ok]

/-- Settles O22: every form is a store of the word read. -/
theorem DataTransfer.moveWord : Obligations.MoveWord := by
  intro s v d e i o dst len l hi hpc hv hl hacc
  have hexec : exec i s = Machine.moveWord len o dst s := by
    refine of_mem_forms (fun i dst len => exec i s = Machine.moveWord len o dst s) hi ?_
    simp only [List.forall_mem_cons, List.not_mem_nil, false_imp_iff, implies_true, and_true]
    exact ⟨rfl, rfl, rfl, rfl, rfl, rfl, rfl, rfl⟩
  rw [hexec, moveWord_of_load hv]
  exact finish_storeW v hpc hl hacc

/-- DD is bit 4 of PSWH (spec/10_state.md R26). -/
theorem dd_of_readB_pswh {t : State} {v : Byte} (h : readB t .pswh = .ok v) : t.dd = v.getLsbD 4 := by
  obtain rfl : hiByte t.psw = v := Except.ok.inj h
  unfold hiByte State.dd
  rw [BitVec.getLsbD_extractLsb']
  rfl

/-- SCB is bits 2..0 of PSWL (R27). -/
theorem scb_of_readB_pswl {t : State} {v : Byte} (h : readB t .pswl = .ok v) : t.scb = v.extractLsb' 0 3 := by
  obtain rfl : loByte t.psw = v := Except.ok.inj h
  exact (BitVec.extractLsb'_extractLsb'_of_le (by decide)).symm

/-- Settles O23: every form is a store of the byte read, and DD and SCB are bits of what PSWH and PSWL then hold. -/
theorem DataTransfer.moveByte : Obligations.MoveByte := by
  intro s v d r i o dst len l hi hpc hv hl hacc
  have hexec : exec i s = Machine.moveByte len o dst s := by
    refine of_mem_forms (fun i dst len => exec i s = Machine.moveByte len o dst s) hi ?_
    simp only [List.forall_mem_cons, List.not_mem_nil, false_imp_iff, implies_true, and_true]
    exact ⟨rfl, rfl, rfl, rfl⟩
  rw [hexec, moveByte_of_load hv]
  obtain ⟨t, ht, hval, hpct, hchanges⟩ := finish_storeB v hpc hl hacc
  have held (h : l.mask s.cfg = 0xFF#8) : readB t l = .ok v := by rw [hval, h]; exact congrArg _ BitVec.and_allOnes
  refine ⟨t, ht, hval, hpct, hchanges, ?_, ?_⟩
  · rintro rfl
    exact dd_of_readB_pswh (held rfl)
  · rintro rfl
    exact scb_of_readB_pswl (held rfl)

end Sys2Proof.Machine
end

section
/-! Proofs about the swaps and exchanges (spec/40_data_transfer.md R210 to R214). -/

namespace Sys2Proof.Machine

/-! SWAP and SWAPB. -/

theorem swapAcc_word {s : State} (hdd : s.dd = true) : swapAcc s = s.setA (mkWord (loByte s.a) (hiByte s.a)) :=
  if_pos hdd

/-- A byte rotated by four has its nibbles exchanged (R211). -/
theorem rotateLeft_nibbles (v : Word) :
    (loByte v).rotateLeft 4 = (v.extractLsb' 0 4 ++ v.extractLsb' 4 4 : Byte) := by
  refine BitVec.eq_of_getLsbD_eq fun k hk => ?_
  rw [BitVec.getLsbD_append, BitVec.getLsbD_rotateLeft]
  by_cases h4 : k < 4
  · simp [loByte, h4, show 4 + k < 8 by omega]
  · simp [loByte, h4, hk, show k - 4 < 4 by omega, show k - 4 < 8 by omega]

theorem swapAcc_byte {s : State} (hdd : s.dd = false) :
    swapAcc s = s.setAl (s.a.extractLsb' 0 4 ++ s.a.extractLsb' 4 4 : Byte) :=
  (if_neg (by simp [hdd])).trans (congrArg s.setAl (rotateLeft_nibbles s.a))

/-- Settles O24: both are `swapAcc`, whose two cases are the two exchanges. -/
theorem swap : Obligations.Swap := by
  intro s i hi hpc
  have hexec (t : State) (ht : swapAcc s = t) (hpct : t.pc = s.pc) : exec i s = .next (t.setPc (s.pc + 1#16)) := by
    have hnext := finish_next (n := 1) (congrArg Except.ok ht) hpct hpc
    simp only [List.mem_cons, List.not_mem_nil, or_false] at hi
    obtain rfl | rfl := hi <;> exact hnext
  refine ⟨?_, fun hdd => hexec _ (swapAcc_word hdd) rfl, fun hdd => hexec _ (swapAcc_byte hdd) rfl⟩
  simp only [List.mem_cons, List.not_mem_nil, or_false] at hi
  obtain rfl | rfl := hi <;> rfl

/-! A location over A, which an exchange writes twice (spec/10_state.md R36). -/

/-- Whether a word location is A, by its data address. -/
def WLoc.isAcc (c : Config) : WLoc → Bool
  | .mem ea => regAt c ea == some .acc
  | _ => false

/-- Whether a byte location is AL, by its data address. -/
def BLoc.isAl (c : Config) : BLoc → Bool
  | .mem ea => regAt c ea == some .acc && !ea.getLsbD 0
  | _ => false

theorem WLoc.isAcc_iff {c : Config} {l : WLoc} : l.isAcc c = true ↔ ∃ ea, l = .mem ea ∧ regAt c ea = some .acc := by
  cases l <;> simp [WLoc.isAcc]

theorem BLoc.isAl_iff {c : Config} {l : BLoc} :
    l.isAl c = true ↔ ∃ ea, l = .mem ea ∧ regAt c ea = some .acc ∧ ea.getLsbD 0 = false := by
  cases l <;> simp [BLoc.isAl]

/-- A location that is A reads A. -/
theorem readW_of_isAcc {s : State} {l : WLoc} (h : l.isAcc s.cfg = true) : readW s l = .ok s.a := by
  obtain ⟨ea, rfl, hreg⟩ := WLoc.isAcc_iff.1 h
  exact readWord_reg hreg

/-- A location that is AL reads AL. -/
theorem readB_of_isAl {s : State} {l : BLoc} (h : l.isAl s.cfg = true) : readB s l = .ok s.al := by
  obtain ⟨ea, rfl, hreg, hlow⟩ := BLoc.isAl_iff.1 h
  show readByte s ea = .ok s.al
  rw [readByte_reg hreg, hlow]
  rfl

/-- A word written where A lies is what A then holds. -/
theorem WroteW.a_of_isAcc {s t : State} {l : WLoc} {v : Word} (h : WroteW s t l v) (hl : l.isAcc s.cfg = true) :
    t.a = v := by
  have hread : readW t l = .ok t.a := readW_of_isAcc (by rw [h.changes.cfg]; exact hl)
  obtain ⟨ea, rfl, hreg⟩ := WLoc.isAcc_iff.1 hl
  have hval := Except.ok.inj (hread.symm.trans h.value)
  rw [WLoc.mask_of_regAt hreg] at hval
  exact hval.trans BitVec.and_allOnes

/-- A byte written where AL lies is what AL then holds. -/
theorem WroteB.al_of_isAl {s t : State} {l : BLoc} {v : Byte} (h : WroteB s t l v) (hl : l.isAl s.cfg = true) :
    t.al = v := by
  have hread : readB t l = .ok t.al := readB_of_isAl (by rw [h.changes.cfg]; exact hl)
  obtain ⟨ea, rfl, hreg, -⟩ := BLoc.isAl_iff.1 hl
  have hmask : (BLoc.mem ea).mask s.cfg = 0xFF#8 := by
    simp only [BLoc.mask, hreg]
    rfl
  have hval := Except.ok.inj (hread.symm.trans h.value)
  rw [hmask] at hval
  exact hval.trans BitVec.and_allOnes

/-- A byte location that is not AL reads the same after a change within AL. -/
theorem readB_of_changes_al {s t : State} {l : BLoc} (h : Changes s t (Touch.half .acc false) [])
    (hl : l.isAl s.cfg = false) : readB t l = readB s l := by
  refine readB_of_changes h (fun _ _ => List.not_mem_nil) fun r k hk => ?_
  cases l with
  | pswh | pswl =>
    simp only [BLoc.touches, Touch.half, Bool.and_eq_true, beq_iff_eq] at hk
    obtain ⟨rfl, -⟩ := hk
    rfl
  | mem ea =>
    simp only [BLoc.touches] at hk
    cases hreg : regAt s.cfg ea with
    | none => simp [hreg, Touch.nothing] at hk
    | some q =>
      simp only [hreg, Touch.half, Bool.and_eq_true, beq_iff_eq] at hk
      obtain ⟨rfl, hhalf⟩ := hk
      cases r with
      | acc =>
        have hhigh : ea.getLsbD 0 = true := by simpa [BLoc.isAl, hreg] using hl
        simp [Touch.half, hhalf, hhigh]
      | _ => rfl

/-- A word location reads the same after A is written, if what A takes is no change where the location is A. -/
theorem readW_setA_of_kept {t : State} {l : WLoc} {v : Word} (ha : l.isAcc t.cfg = true → v = t.a) :
    readW (t.setA v) l = readW t l := by
  cases hl : l.isAcc t.cfg with
  | true =>
    obtain rfl := ha hl
    rfl
  | false =>
    refine readW_setA v fun ea hmem hreg => ?_
    rw [WLoc.isAcc_iff.2 ⟨ea, hmem, hreg⟩] at hl
    cases hl

/-- A byte location reads the same after a change within AL that leaves AL as it was where the location is AL. -/
theorem readB_of_changes_al_kept {t u : State} {l : BLoc} (h : Changes t u (Touch.half .acc false) [])
    (hal : l.isAl t.cfg = true → u.al = t.al) : readB u l = readB t l := by
  cases hl : l.isAl t.cfg with
  | true =>
    have hread : readB u l = .ok u.al := readB_of_isAl (by rw [h.cfg]; exact hl)
    rw [hread, readB_of_isAl hl, hal hl]
  | false => exact readB_of_changes_al h hl

/-- After an exchange the location holds what A held: where it is A, what A takes last is what it held before. -/
theorem readW_exchange {s t : State} {l : WLoc} {v : Word} (hwrote : WroteW s t l s.a) (hv : readW s l = .ok v) :
    readW (t.setA v) l = .ok (s.a &&& l.mask s.cfg) := by
  refine (readW_setA_of_kept fun hl => ?_).trans hwrote.value
  rw [hwrote.changes.cfg] at hl
  rw [hwrote.a_of_isAcc hl]
  exact Except.ok.inj (hv.symm.trans (readW_of_isAcc hl))

/-- The same of a byte location and AL. -/
theorem readB_exchange {s t : State} {l : BLoc} {b : Byte} (hwrote : WroteB s t l s.al) (hb : readB s l = .ok b) :
    readB (t.setAl b) l = .ok (s.al &&& l.mask s.cfg) := by
  refine (readB_of_changes_al_kept (changes_setAl t b []) fun hl => ?_).trans hwrote.value
  rw [hwrote.changes.cfg] at hl
  rw [State.al_setAl, hwrote.al_of_isAl hl]
  exact Except.ok.inj (hb.symm.trans (readB_of_isAl hl))

/-! XNBL (R214). -/

theorem nibble_masks_word : ∀ k : Fin 16, (0x000F#16).getLsbD k = decide (k.1 < 4) ∧
    (0xFFF0#16).getLsbD k = decide (4 ≤ k.1) := by decide

theorem nibble_masks_byte : ∀ k : Fin 8, (0x0F#8).getLsbD k = decide (k.1 < 4) ∧
    (0xF0#8).getLsbD k = decide (4 ≤ k.1) := by decide

/-- `A[3:0] <- v[3:0]`. -/
def State.setLowNibble (s : State) (v : Byte) : State :=
  s.setA (s.a &&& 0xFFF0#16 ||| v.setWidth 16 &&& 0x000F#16)

theorem getLsbD_setLowNibble (s : State) (v : Byte) (k : Nat) :
    (s.setLowNibble v).a.getLsbD k = if k < 4 then v.getLsbD k else s.a.getLsbD k := by
  simp only [State.setLowNibble, State.setA_a, BitVec.getLsbD_or, BitVec.getLsbD_and, BitVec.getLsbD_setWidth]
  by_cases hk : k < 16
  · obtain ⟨hlow, hhigh⟩ := nibble_masks_word ⟨k, hk⟩
    simp only [hlow, hhigh]
    by_cases h4 : k < 4
    · simp [h4, hk, Nat.not_le.2 h4]
    · simp [h4, Nat.le_of_not_lt h4]
  · simp [BitVec.getLsbD_of_ge, hk, show ¬ k < 4 by omega, Nat.le_of_not_lt hk]

theorem changes_setLowNibble (s : State) (v : Byte) (st : List Word) :
    Changes s (s.setLowNibble v) (fun q k => q == .acc && decide (k < 4)) st :=
  Changes.ofRegs (s := s) (t := s.setLowNibble v) rfl rfl rfl rfl (fun r k h => by
    cases r with
    | acc =>
      have h4 : ¬ k < 4 := by simpa using h
      exact (getLsbD_setLowNibble s v k).trans (if_neg h4)
    | _ => rfl) st

theorem getLsbD_joinedNibbles (v : Byte) (a : Word) (k : Nat) :
    (v.extractLsb' 4 4 ++ a.extractLsb' 0 4 : Byte).getLsbD k = if k < 4 then a.getLsbD k else v.getLsbD k := by
  rw [BitVec.getLsbD_append]
  by_cases h4 : k < 4
  · simp [h4]
  · by_cases h8 : k < 8
    · simp [h4, show k - 4 < 4 by omega, show 4 + (k - 4) = k by omega]
    · simp [h4, show ¬ k - 4 < 4 by omega, BitVec.getLsbD_of_ge v k (by omega)]

/-- The byte that XNBL writes. -/
theorem masked_eq_joinedNibbles (v : Byte) (a : Word) :
    v &&& 0xF0#8 ||| loByte a &&& 0x0F#8 = (v.extractLsb' 4 4 ++ a.extractLsb' 0 4 : Byte) := by
  refine BitVec.eq_of_getLsbD_eq fun k hk => ?_
  obtain ⟨hlow, hhigh⟩ := nibble_masks_byte ⟨k, hk⟩
  simp only [getLsbD_joinedNibbles, loByte, BitVec.getLsbD_or, BitVec.getLsbD_and,
    BitVec.getLsbD_extractLsb', hlow, hhigh]
  by_cases h4 : k < 4
  · simp [h4, hk, Nat.not_le.2 h4]
  · simp [h4, Nat.le_of_not_lt h4]

theorem getLsbD_al (s : State) {k : Nat} (hk : k < 8) : s.al.getLsbD k = s.a.getLsbD k := by
  simp [State.al, loByte, hk]

/-- After XNBL the byte holds its own upper nibble and the one of A: where it is AL, AL has kept its value. -/
theorem readB_exchangeNibble {s t : State} {l : BLoc} {v : Byte}
    (hwrote : WroteB s t l (v.extractLsb' 4 4 ++ s.a.extractLsb' 0 4 : Byte)) (hv : readB s l = .ok v) :
    readB (t.setLowNibble v) l = .ok ((v.extractLsb' 4 4 ++ s.a.extractLsb' 0 4 : Byte) &&& l.mask s.cfg) := by
  have hchanges : Changes t (t.setLowNibble v) (Touch.half .acc false) [] :=
    (changes_setLowNibble t v []).mono (fun r k hk => by grind [Touch.half]) fun _ h => h
  refine (readB_of_changes_al_kept hchanges fun hl => ?_).trans hwrote.value
  rw [hwrote.changes.cfg] at hl
  obtain rfl : v = s.al := Except.ok.inj (hv.symm.trans (readB_of_isAl hl))
  have hal := hwrote.al_of_isAl hl
  refine BitVec.eq_of_getLsbD_eq fun k hk => ?_
  rw [getLsbD_al _ hk, getLsbD_setLowNibble, ← getLsbD_al t hk]
  by_cases h4 : k < 4
  · rw [if_pos h4, hal, getLsbD_joinedNibbles, if_pos h4, getLsbD_al s hk]
  · rw [if_neg h4]

/-- Settles O25: the object is written and then A, and the object still holds what was written there, over A too. -/
theorem exchange : Obligations.Exchange := by
  refine fun s => ⟨fun o l v hdd hpc hl hv => ?_, fun o l b hdd hpc hl hb => ?_, fun d v hpc hv => ?_⟩
  · obtain ⟨t, ht⟩ := writeW_total s.a (WLoc.accessible_of_readW hv)
    have hwrote := writeW_wrote ht
    have hexec : exec (.xchgAObj o) s = finish (o.prefixLen + 1) (.ok (t.setA v)) := by
      show execXchgAObj o s = _
      unfold execXchgAObj
      rw [if_pos hdd, hl, Res.bind_ok, hv, Res.bind_ok, ht, Res.bind_ok]
    refine ⟨_, hexec.trans (finish_next rfl hwrote.pc hpc), rfl,
      (readW_setPc _ _ l).trans (readW_exchange hwrote hv), rfl, Changes.setPc ?_ _⟩
    rw [Touch.or_comm]
    exact hwrote.changes.comp (changes_setA t v _)
  · obtain ⟨t, ht⟩ := writeB_total s.al (BLoc.accessible_of_readB hb)
    have hwrote := writeB_wrote ht
    have hexec : exec (.xchgbAObj o) s = finish (o.prefixLen + 1) (.ok (t.setAl b)) := by
      show execXchgbAObj o s = _
      unfold execXchgbAObj
      rw [if_neg (by simp [hdd]), hl, Res.bind_ok, hb, Res.bind_ok, ht, Res.bind_ok]
    refine ⟨_, hexec.trans (finish_next rfl hwrote.pc hpc), State.al_setAl t b,
      (readB_setPc _ _ l).trans (readB_exchange hwrote hb), rfl, Changes.setPc ?_ _⟩
    rw [Touch.or_comm]
    exact hwrote.changes.comp (changes_setAl t b _)
  · have hload : loadB s (.off d) = .ok v := hv
    obtain ⟨t, ht⟩ := writeB_total (v.extractLsb' 4 4 ++ s.a.extractLsb' 0 4 : Byte)
      (BLoc.accessible_of_readB (l := .mem (pageAddr s d)) hv)
    have hwrote := writeB_wrote ht
    have hstore : storeB s (.off d) (v.extractLsb' 4 4 ++ s.a.extractLsb' 0 4 : Byte) = .ok t := ht
    have hexec : exec (.xnblAOff d) s = finish 2 (.ok (t.setLowNibble v)) := by
      show execXnblAOff d s = _
      unfold execXnblAOff
      rw [hload, Res.bind_ok, State.al, masked_eq_joinedNibbles, hstore, Res.bind_ok]
      rfl
    refine ⟨_, hexec.trans (finish_next rfl hwrote.pc hpc),
      fun k hk => (getLsbD_setLowNibble t v k).trans (if_pos hk), readB_exchangeNibble hwrote hv, rfl,
      Changes.setPc ?_ _⟩
    rw [Touch.or_comm]
    exact hwrote.changes.comp (changes_setLowNibble t v _)

end Sys2Proof.Machine
end

section
/-! Proofs about the codes the spec prints (spec/40_data_transfer.md R151, R163, spec/45_arithmetic.md R300, R305,
spec/46_logic.md R350, spec/49_bit.md R394, spec/50_jump_call.md R412). -/

namespace Sys2Proof

/-- The code of an instruction at the candidate opcodes decodes to it. -/
theorem decode_candidate {dd : Bool} {bs : List Byte} (i : Instr)
    (h : IsCode Opcodes.candidate dd i bs) :
    decode Opcodes.candidate dd bs = .instr i bs.length := by
  simpa using readBack i _ _ bs [] Machine.opcodes_legal_candidate h

/-- Settles O10: each printed code is the code that the encoder gives its instruction, so it is read back. -/
theorem specWordsDecode : Obligations.SpecWordsDecode :=
  ⟨decode_candidate (.lImm _) ⟨rfl, nofun, rfl⟩, decode_candidate (.movObjImm _ _) ⟨rfl, nofun, rfl⟩,
    decode_candidate .mul ⟨rfl, nofun, rfl⟩, decode_candidate (.addAImm _) ⟨rfl, by decide, rfl⟩,
    decode_candidate (.andbObjImm _ _) ⟨rfl, nofun, rfl⟩, decode_candidate (.rbBit _ _) ⟨rfl, nofun, rfl⟩,
    decode_candidate (.sj _) ⟨rfl, nofun, rfl⟩⟩

end Sys2Proof
end

section
/-! Proofs about the rotates and shifts (spec/42_rotate_shift.md R230 to R245). -/

namespace Sys2Proof.Machine

/-! The five operations as arithmetic, at every width (R231, R234, R237, R240, R243). -/

/-- A bit that was 0 adds its own weight when it is written. -/
theorem toNat_setBit_of_clear {w : Nat} {v : BitVec w} {i : Nat} (hi : i < w) (hclear : v.getLsbD i = false)
    (b : Bool) : (setBit v i b).toNat = v.toNat + b.toNat * 2 ^ i := by
  cases b with
  | false =>
    have hsame : setBit v i false = v := by
      refine BitVec.eq_of_getLsbD_eq fun k _ => ?_
      rw [getLsbD_setBit]
      split
      · next hk => rw [hk, hclear, Bool.false_and]
      · rfl
    rw [hsame, Bool.toNat_false, Nat.zero_mul, Nat.add_zero]
  | true =>
    have hapart : v &&& BitVec.twoPow w i = 0#w := by rw [BitVec.and_twoPow, hclear]; rfl
    show (v ||| BitVec.twoPow w i).toNat = _
    rw [← BitVec.add_eq_or_of_and_eq_zero _ _ hapart, BitVec.toNat_add_of_and_eq_zero hapart,
      BitVec.toNat_twoPow_of_lt hi, Bool.toNat_true, Nat.one_mul]

theorem toNat_shiftLeft_one {w : Nat} (v : BitVec w) : (v <<< 1).toNat = (2 * v.toNat) % 2 ^ w := by
  rw [BitVec.toNat_shiftLeft, Nat.shiftLeft_eq, Nat.pow_one, Nat.mul_comm]

theorem toNat_ushiftRight_one {w : Nat} (v : BitVec w) : (v >>> 1).toNat = v.toNat / 2 := by
  rw [BitVec.toNat_ushiftRight, Nat.shiftRight_eq_div_pow, Nat.pow_one]

/-- The bit a shift to the right moves out. -/
theorem getLsbD_zero_eq_decide {w : Nat} (v : BitVec w) : v.getLsbD 0 = decide (v.toNat % 2 = 1) :=
  Nat.testBit_zero _

/-- The bit a shift to the left moves out. -/
theorem msb_eq_decide_two_mul {w : Nat} (hw : 0 < w) (v : BitVec w) : v.msb = decide (2 ^ w ≤ 2 * v.toNat) := by
  have hpow : 2 ^ w = 2 * 2 ^ (w - 1) := (mul_pow_sub_one (Nat.ne_of_gt hw) 2).symm
  rw [BitVec.msb_eq_decide, hpow]
  exact decide_eq_decide.2 (by omega)

/-- A bit added to an even number stays within an even modulus. -/
theorem two_mul_add_bit_mod {w : Nat} (hw : 0 < w) (n : Nat) (c : Bool) :
    (2 * n + c.toNat) % 2 ^ w = (2 * n) % 2 ^ w + c.toNat := by
  have hc : c.toNat < 2 := c.toNat_lt
  rw [← mul_pow_sub_one (Nat.ne_of_gt hw) 2, Nat.mod_mul, Nat.mod_mul,
    show (2 * n + c.toNat) / 2 = n by omega, show 2 * n / 2 = n by omega]
  omega

/-- ROL puts the carry into the bit that doubling has left 0 (R231). -/
theorem shiftOut_rol_toNat {w : Nat} (hw : 0 < w) (v : BitVec w) (c : Bool) :
    (shiftOut .rol v c).1.toNat = (2 * v.toNat + c.toNat) % 2 ^ w := by
  have hclear : (v <<< 1).getLsbD 0 = false := by simp
  calc (setBit (v <<< 1) 0 c).toNat
      = (v <<< 1).toNat + c.toNat * 2 ^ 0 := toNat_setBit_of_clear hw hclear c
    _ = (2 * v.toNat) % 2 ^ w + c.toNat := by rw [toNat_shiftLeft_one, Nat.pow_zero, Nat.mul_one]
    _ = (2 * v.toNat + c.toNat) % 2 ^ w := (two_mul_add_bit_mod hw _ c).symm

/-- ROR puts the carry into the top bit, which halving has left 0 (R234). -/
theorem shiftOut_ror_toNat {w : Nat} (hw : 0 < w) (v : BitVec w) (c : Bool) :
    (shiftOut .ror v c).1.toNat = v.toNat / 2 + c.toNat * 2 ^ (w - 1) := by
  have hclear : (v >>> 1).getLsbD (w - 1) = false := by
    rw [BitVec.getLsbD_ushiftRight]
    exact BitVec.getLsbD_of_ge v _ (by omega)
  calc (setBit (v >>> 1) (w - 1) c).toNat
      = (v >>> 1).toNat + c.toNat * 2 ^ (w - 1) := toNat_setBit_of_clear (by omega) hclear c
    _ = v.toNat / 2 + c.toNat * 2 ^ (w - 1) := by rw [toNat_ushiftRight_one]

/-- SRA keeps the sign, so it halves the signed value, rounding down (R243). -/
theorem shiftOut_sra_toInt {w : Nat} (v : BitVec w) (c : Bool) : (shiftOut .sra v c).1.toInt = v.toInt / 2 := by
  show (v.sshiftRight 1).toInt = _
  rw [BitVec.toInt_sshiftRight, Int.shiftRight_eq_div_pow]
  rfl

/-- Settles O28: each operation is its law above, which asks only for a width that is not 0. -/
theorem shiftsAreExact : Obligations.ShiftsAreExact := by
  intro w hwidth v c
  have hw : 0 < w := by omega
  have top := msb_eq_decide_two_mul hw v
  have bottom := getLsbD_zero_eq_decide v
  exact ⟨⟨shiftOut_rol_toNat hw v c, top⟩, ⟨shiftOut_ror_toNat hw v c, bottom⟩, ⟨toNat_shiftLeft_one v, top⟩,
    ⟨toNat_ushiftRight_one v, bottom⟩, ⟨shiftOut_sra_toInt v c, bottom⟩⟩

/-! The accumulator forms, which DD makes word or byte instructions (R230). -/

theorem shiftAcc_word {s : State} (hdd : s.dd = true) (op : ShiftOp) :
    shiftAcc op s = (s.setA (shiftOut op s.a (s.flag .cf)).1).setFlag .cf (shiftOut op s.a (s.flag .cf)).2 :=
  if_pos hdd

theorem shiftAcc_byte {s : State} (hdd : s.dd = false) (op : ShiftOp) :
    shiftAcc op s = (s.setAl (shiftOut op s.al (s.flag .cf)).1).setFlag .cf (shiftOut op s.al (s.flag .cf)).2 :=
  if_neg (by simp [hdd])

/-- Settles O29: all ten are `shiftAcc`, which writes A or AL and then CF. -/
theorem shiftAccumulator : Obligations.ShiftAccumulator := by
  intro s i op hpc hi
  have hform : exec i s = finish 1 (.ok (shiftAcc op s)) := by
    refine (?_ : ∀ x : Instr × ShiftOp, x ∈ _ → exec x.1 s = finish 1 (.ok (shiftAcc x.2 s))) (i, op) hi
    simp only [List.forall_mem_cons, List.not_mem_nil, false_imp_iff, implies_true, and_true]
    exact ⟨rfl, rfl, rfl, rfl, rfl, rfl, rfl, rfl, rfl, rfl⟩
  have hexec (t : State) (ht : shiftAcc op s = t) (hpct : t.pc = s.pc) : exec i s = .next (t.setPc (s.pc + 1#16)) :=
    hform.trans (finish_next (congrArg Except.ok ht) hpct hpc)
  refine ⟨fun hdd => ?_, fun hdd => ?_⟩
  · exact ⟨_, hexec _ (shiftAcc_word hdd op) rfl, rfl, State.flag_setFlag_self _ .cf _, rfl,
      ((changes_setA s _ []).comp (changes_setFlag _ .cf _ [])).setPc _⟩
  · exact ⟨_, hexec _ (shiftAcc_byte hdd op) rfl, State.al_setAl s _, State.flag_setFlag_self _ .cf _, rfl,
      ((changes_setAl s _ []).comp (changes_setFlag _ .cf _ [])).setPc _⟩

/-! An object's result and then CF (R34, R230). -/

/-- A word result outside PSWH stands as it was written once CF is written, and the two are all that changes. -/
theorem writeFlagsW_cf {s : State} {l : WLoc} (v : Word) (b : Bool) (hacc : l.accessible s.cfg = true)
    (hp : l.holdsPswh s.cfg = false) :
    ∃ t, writeFlagsW s l v (·.setFlag .cf b) = .ok t ∧ t.pc = s.pc ∧ readW t l = .ok (v &&& l.mask s.cfg) ∧
      t.flag .cf = b ∧ Changes s t ((l.touches s.cfg).or (Touch.flags s.cfg [.cf])) l.bytes := by
  obtain ⟨t, ht, hwrote⟩ := writeFlagsW_ok v (·.setFlag .cf b) hacc hp
  have hcfg := hwrote.changes.cfg
  have hflag (st : List Word) := changes_setFlag t .cf b st
  rw [hcfg] at hflag
  refine ⟨_, ht, hwrote.pc, ?_, State.flag_setFlag_self t .cf b, hwrote.changes.comp (hflag l.bytes)⟩
  rw [readW_flags (hflag []) (fun _ _ => List.not_mem_nil) (hcfg ▸ hp)]
  exact hwrote.value

/-- The same of a byte: CF lies in PSWH (spec/10_state.md R28), so a result in PSWL stands too. -/
theorem writeFlagsB_cf {s : State} {l : BLoc} (v : Byte) (b : Bool) (hlegal : legalConfig s.cfg)
    (hacc : l.accessible s.cfg = true) (hp : l.holdsPswh s.cfg = false) :
    ∃ t, writeFlagsB s l v (·.setFlag .cf b) = .ok t ∧ t.pc = s.pc ∧ readB t l = .ok (v &&& l.mask s.cfg) ∧
      t.flag .cf = b ∧ Changes s t ((l.touches s.cfg).or (Touch.flags s.cfg [.cf])) l.bytes := by
  obtain ⟨t, ht, hwrote⟩ := writeFlagsB_ok v (·.setFlag .cf b) hacc hp
  have hcfg := hwrote.changes.cfg
  have hflag (st : List Word) := changes_setFlag t .cf b st
  rw [hcfg] at hflag
  have hhigh : ∀ f ∈ [Flag.cf], 8 ≤ f.bit s.cfg := List.forall_mem_singleton.2 hlegal.apart.cf_high
  refine ⟨_, ht, hwrote.pc, ?_, State.flag_setFlag_self t .cf b, hwrote.changes.comp (hflag l.bytes)⟩
  rw [readB_flags (hflag []) (fun _ _ => List.not_mem_nil) (hcfg ▸ hp) hhigh]
  exact hwrote.value

/-! The object forms. -/

theorem shiftWord_of_read {s : State} {o : WObj} {l : WLoc} {v : Word} (hl : wordLoc s o = .ok l)
    (hv : readW s l = .ok v) (op : ShiftOp) :
    shiftWord op o s = finish (o.prefixLen + 1) (writeFlagsW s l (shiftOut op v (s.flag .cf)).1
      (·.setFlag .cf (shiftOut op v (s.flag .cf)).2)) := by
  unfold shiftWord
  simp only [hl, hv, Res.bind_ok]

theorem shiftByte_of_read {s : State} {o : BObj} {m : BLoc} {b : Byte} (hm : byteLoc s o = .ok m)
    (hb : readB s m = .ok b) (op : ShiftOp) :
    shiftByte op o s = finish (o.prefixLen + 1) (writeFlagsB s m (shiftOut op b (s.flag .cf)).1
      (·.setFlag .cf (shiftOut op b (s.flag .cf)).2)) := by
  unfold shiftByte
  simp only [hm, hb, Res.bind_ok]

/-- Settles O30: every form is `shiftWord` or `shiftByte`, a write of the shifted value and then of CF. -/
theorem shiftObject : Obligations.ShiftObject := by
  refine fun s hlegal => ⟨fun i op o l v hi hpc hl hv hp => ?_, fun i op o m b hi hpc hm hb hp => ?_⟩
  · have hform : exec i s = shiftWord op o s := by
      refine (?_ : ∀ x : Instr × ShiftOp, x ∈ _ → exec x.1 s = shiftWord x.2 o s) (i, op) hi
      simp only [List.forall_mem_cons, List.not_mem_nil, false_imp_iff, implies_true, and_true]
      exact ⟨rfl, rfl, rfl, rfl, rfl⟩
    obtain ⟨t, ht, hpct, hval, hcf, hchanges⟩ := writeFlagsW_cf (shiftOut op v (s.flag .cf)).1
      (shiftOut op v (s.flag .cf)).2 (WLoc.accessible_of_readW hv) hp
    rw [hform, shiftWord_of_read hl hv]
    exact ⟨_, finish_next ht hpct hpc, (readW_setPc t _ l).trans hval, hcf, rfl, hchanges.setPc _⟩
  · have hform : exec i s = shiftByte op o s := by
      refine (?_ : ∀ x : Instr × ShiftOp, x ∈ _ → exec x.1 s = shiftByte x.2 o s) (i, op) hi
      simp only [List.forall_mem_cons, List.not_mem_nil, false_imp_iff, implies_true, and_true]
      exact ⟨rfl, rfl, rfl, rfl, rfl⟩
    obtain ⟨t, ht, hpct, hval, hcf, hchanges⟩ := writeFlagsB_cf (shiftOut op b (s.flag .cf)).1
      (shiftOut op b (s.flag .cf)).2 hlegal (BLoc.accessible_of_readB hb) hp
    rw [hform, shiftByte_of_read hm hb]
    exact ⟨_, finish_next ht hpct hpc, (readB_setPc t _ m).trans hval, hcf, rfl, hchanges.setPc _⟩

end Sys2Proof.Machine
end

section
/-! Proofs about the increments and decrements (spec/43_inc_dec.md R260 to R267). -/

namespace Sys2Proof.Machine

/-! The result and the flags of a step. -/

/-- R260 writes the two results as one choice by the operation. -/
theorem stepOut_eq_ite {w : Nat} (op : StepOp) (v : BitVec w) :
    stepOut op v = if op = .inc then v + 1#w else v - 1#w := by cases op <;> rfl

/-- The one value each operation takes to zero. -/
theorem stepOut_eq_zero_iff {w : Nat} (op : StepOp) (v : BitVec w) :
    stepOut op v = 0 ↔ v = if op = .inc then BitVec.allOnes w else 1#w := by
  cases op with
  | inc =>
    rw [if_pos rfl, ← BitVec.neg_one_eq_allOnes]
    exact eq_neg_iff_add_eq_zero.symm
  | dec => exact sub_eq_zero

/-- What R260 and R262 say of the flags of a state after a step of the value `v`. -/
structure HasStepFlags {w : Nat} (c : Config) (op : StepOp) (isLrb : Bool) (v : BitVec w) (t : State) : Prop where
  zf : ¬ (isLrb = true ∧ op = .inc) → t.flag .zf = decide (v = if op = .inc then BitVec.allOnes w else 1#w)
  hc : c.incDecFlag = .hc → t.flag .hc = decide (v.toNat % 16 = if op = .inc then 15 else 0)
  cf : c.incDecFlag = .cf → t.flag .cf = decide (v = if op = .inc then BitVec.allOnes w else 0#w)

/-- The bits of PSW that a step may change: ZF but for INC of LRB (R262), and the second flag (R260). -/
def Touch.step (c : Config) (op : StepOp) (isLrb : Bool) : Touch :=
  (if isLrb = true ∧ op = .inc then Touch.nothing else Touch.flags c [.zf]).or (Touch.flags c [Config.stepFlag c])

/-- ZF and the second flag are all a step may change, whatever the object. -/
theorem Touch.step_of_flags {c : Config} (op : StepOp) (isLrb : Bool) {r : CpuReg} {k : Nat}
    (h : Touch.flags c [.zf, Config.stepFlag c] r k = false) : Touch.step c op isLrb r k = false := by
  have hparts : Touch.flags c [.zf] r k = false ∧ Touch.flags c [Config.stepFlag c] r k = false := by
    simpa [Touch.flags, imp_and] using h
  refine Touch.or_eq_false.2 ⟨?_, hparts.2⟩
  split
  · rfl
  · exact hparts.1

/-- The second flag is HC or CF, so it lies apart from ZF and in PSWH (spec/10_state.md R28). -/
theorem FlagsApart.stepFlag {c : Config} (h : FlagsApart c) :
    Flag.zf.bit c ≠ (Config.stepFlag c).bit c ∧ 8 ≤ (Config.stepFlag c).bit c := by
  unfold Config.stepFlag
  split
  · exact ⟨h.zf_hc, h.hc_high⟩
  · exact ⟨h.cf_zf.symm, h.cf_high⟩

/-- The second flag is written after ZF and leaves it. -/
theorem flag_zf_stepSecond {w : Nat} {s : State} (hf : FlagsApart s.cfg) (op : StepOp) (v : BitVec w) :
    (s.stepSecond op v).flag .zf = s.flag .zf :=
  (changes_stepSecond s op v []).flag .zf (by simpa [Touch.flags] using hf.stepFlag.1)

theorem stepFlags_of_zf {w : Nat} (s : State) {op : StepOp} {isLrb : Bool} (h : ¬ (isLrb = true ∧ op = .inc))
    (v r : BitVec w) : s.stepFlags op isLrb v r = (s.setFlag .zf (r == 0)).stepSecond op v := by
  have hcond : (isLrb && op == .inc) = false := by simpa using h
  unfold State.stepFlags
  rw [hcond, cond_false]

/-- The flags `State.stepFlags` leaves are those of R260 and R262. -/
theorem hasStepFlags_stepFlags {w : Nat} {s : State} (hf : FlagsApart s.cfg) (op : StepOp) (isLrb : Bool)
    (v : BitVec w) : HasStepFlags s.cfg op isLrb v (s.stepFlags op isLrb v (stepOut op v)) := by
  by_cases h : isLrb = true ∧ op = .inc
  · obtain ⟨rfl, rfl⟩ := h
    obtain ⟨hhc, hcf⟩ := stepSecond_spec s .inc v
    exact ⟨fun hn => absurd ⟨rfl, rfl⟩ hn, hhc, hcf⟩
  · rw [stepFlags_of_zf s h]
    obtain ⟨hhc, hcf⟩ := stepSecond_spec (s.setFlag .zf (stepOut op v == 0)) op v
    refine ⟨fun _ => ?_, hhc, hcf⟩
    calc ((s.setFlag .zf (stepOut op v == 0)).stepSecond op v).flag .zf
        = (s.setFlag .zf (stepOut op v == 0)).flag .zf :=
          flag_zf_stepSecond (s := s.setFlag .zf (stepOut op v == 0)) hf op v
      _ = (stepOut op v == 0) := State.flag_setFlag_self s .zf _
      _ = decide (v = if op = .inc then BitVec.allOnes w else 1#w) := decide_eq_decide.2 (stepOut_eq_zero_iff op v)

/-! An object's result and then the flags of the step (R34, R260). -/

/-- The flags of a step written after another change: what they are, what writing them touches, and what both
touch. -/
theorem Changes.stepFlags {w : Nat} {s t : State} {may : Touch} {st : List Word} (h : Changes s t may st)
    (hf : FlagsApart s.cfg) (op : StepOp) (isLrb : Bool) (v : BitVec w) :
    HasStepFlags s.cfg op isLrb v (t.stepFlags op isLrb v (stepOut op v)) ∧
      Changes t (t.stepFlags op isLrb v (stepOut op v)) (Touch.flags s.cfg [.zf, Config.stepFlag s.cfg]) [] ∧
      Changes s (t.stepFlags op isLrb v (stepOut op v)) (may.or (Touch.step s.cfg op isLrb)) st := by
  have hflags (st : List Word) : Changes t _ (Touch.step t.cfg op isLrb) st :=
    changes_stepFlags t op isLrb v (stepOut op v) st
  rw [h.cfg] at hflags
  have hspec := hasStepFlags_stepFlags (s := t) (h.cfg ▸ hf) op isLrb v
  rw [h.cfg] at hspec
  exact ⟨hspec, (hflags []).mono (fun _ _ => Touch.step_of_flags op isLrb) fun _ h => h, h.comp (hflags st)⟩

/-- A word result outside PSWH stands as it was written once the flags are written, and they and it are all that
changes. -/
theorem writeFlagsW_step {s : State} {l : WLoc} (op : StepOp) (v : Word) (hlegal : legalConfig s.cfg)
    (hacc : l.accessible s.cfg = true) (hp : l.holdsPswh s.cfg = false) :
    ∃ t, writeFlagsW s l (stepOut op v) (·.stepFlags op (l.isLrb s.cfg) v (stepOut op v)) = .ok t ∧ t.pc = s.pc ∧
      readW t l = .ok (stepOut op v &&& l.mask s.cfg) ∧ HasStepFlags s.cfg op (l.isLrb s.cfg) v t ∧
      Changes s t ((l.touches s.cfg).or (Touch.step s.cfg op (l.isLrb s.cfg))) l.bytes := by
  obtain ⟨t, ht, hwrote⟩ := writeFlagsW_ok (stepOut op v) (·.stepFlags op (l.isLrb s.cfg) v (stepOut op v)) hacc hp
  obtain ⟨hspec, hflags, hchanges⟩ := hwrote.changes.stepFlags hlegal.apart op (l.isLrb s.cfg) v
  refine ⟨_, ht, (stepFlags_pc t _ _ _ _).trans hwrote.pc, ?_, hspec, hchanges⟩
  rw [readW_flags hflags (fun _ _ => List.not_mem_nil) (hwrote.changes.cfg ▸ hp)]
  exact hwrote.value

/-- The same of a byte: both flags lie in PSWH (spec/10_state.md R28), so a result in PSWL stands too. -/
theorem writeFlagsB_step {s : State} {l : BLoc} (op : StepOp) (v : Byte) (hlegal : legalConfig s.cfg)
    (hacc : l.accessible s.cfg = true) (hp : l.holdsPswh s.cfg = false) :
    ∃ t, writeFlagsB s l (stepOut op v) (·.stepFlags op (l.isLrb s.cfg) v (stepOut op v)) = .ok t ∧ t.pc = s.pc ∧
      readB t l = .ok (stepOut op v &&& l.mask s.cfg) ∧ HasStepFlags s.cfg op (l.isLrb s.cfg) v t ∧
      Changes s t ((l.touches s.cfg).or (Touch.step s.cfg op (l.isLrb s.cfg))) l.bytes := by
  obtain ⟨t, ht, hwrote⟩ := writeFlagsB_ok (stepOut op v) (·.stepFlags op (l.isLrb s.cfg) v (stepOut op v)) hacc hp
  obtain ⟨hspec, hflags, hchanges⟩ := hwrote.changes.stepFlags hlegal.apart op (l.isLrb s.cfg) v
  have hhigh : ∀ f ∈ [Flag.zf, Config.stepFlag s.cfg], 8 ≤ f.bit s.cfg := by
    simpa using ⟨hlegal.apart.zf_high, hlegal.apart.stepFlag.2⟩
  refine ⟨_, ht, (stepFlags_pc t _ _ _ _).trans hwrote.pc, ?_, hspec, hchanges⟩
  rw [readB_flags hflags (fun _ _ => List.not_mem_nil) (hwrote.changes.cfg ▸ hp) hhigh]
  exact hwrote.value

/-! The object forms. -/

theorem stepWord_of_read {s : State} {o : WObj} {l : WLoc} {v : Word} (hl : wordLoc s o = .ok l)
    (hv : readW s l = .ok v) (op : StepOp) (n : Nat) :
    stepWord op n o s =
      finish n (writeFlagsW s l (stepOut op v) (·.stepFlags op (l.isLrb s.cfg) v (stepOut op v))) := by
  unfold stepWord
  simp only [hl, hv, Res.bind_ok]

theorem stepByte_of_read {s : State} {o : BObj} {l : BLoc} {v : Byte} (hl : byteLoc s o = .ok l)
    (hv : readB s l = .ok v) (op : StepOp) (n : Nat) :
    stepByte op n o s =
      finish n (writeFlagsB s l (stepOut op v) (·.stepFlags op (l.isLrb s.cfg) v (stepOut op v))) := by
  unfold stepByte
  simp only [hl, hv, Res.bind_ok]

/-- Settles O31: every form is `stepWord`, a write of the stepped value and then of its flags. -/
theorem stepWordObject : Obligations.StepWordObject := by
  intro s op i o dst len l v hlegal hi hpc hl hv hp
  have hform : exec i s = stepWord op len dst s := by
    refine of_mem_forms (b := (dst, len)) (fun i op x => exec i s = stepWord op x.2 x.1 s) hi ?_
    simp only [List.forall_mem_cons, List.not_mem_nil, false_imp_iff, implies_true, and_true]
    exact ⟨rfl, rfl, rfl, rfl, rfl, rfl, rfl, rfl, rfl, rfl⟩
  obtain ⟨t, ht, hpct, hval, hflags, hchanges⟩ := writeFlagsW_step op v hlegal (WLoc.accessible_of_readW hv) hp
  rw [hform, stepWord_of_read hl hv, ← stepOut_eq_ite]
  exact ⟨_, finish_next ht hpct hpc, (readW_setPc t _ l).trans hval, hflags.zf, hflags.hc, hflags.cf, rfl,
    hchanges.setPc _⟩

/-- Settles O32: every form is `stepByte`, a write of the stepped value and then of its flags. -/
theorem stepByteObject : Obligations.StepByteObject := by
  intro s op i o dst len l v r hlegal hi hpc hl hv hp
  have hform : exec i s = stepByte op len dst s := by
    refine of_mem_forms (b := (dst, len)) (fun i op x => exec i s = stepByte op x.2 x.1 s) hi ?_
    simp only [List.forall_mem_cons, List.not_mem_nil, false_imp_iff, implies_true, and_true]
    exact ⟨rfl, rfl, rfl, rfl⟩
  obtain ⟨t, ht, hpct, hval, hflags, hchanges⟩ := writeFlagsB_step op v hlegal (BLoc.accessible_of_readB hv) hp
  rw [hform, stepByte_of_read hl hv, ← stepOut_eq_ite]
  exact ⟨_, finish_next ht hpct hpc, (readB_setPc t _ l).trans hval, hflags.zf, hflags.hc, hflags.cf, rfl,
    hchanges.setPc _⟩

end Sys2Proof.Machine
end

section
/-! Proofs about the loads and compares of program memory (spec/44_rom_table.md R270 to R283). -/

namespace Sys2Proof.Machine

/-! The three forms of an address (R270). -/

theorem romByte_ok {s : State} {a : Nat} {b : Byte} (h : s.rom.cell a = some b) : romByte s a = .ok b := by
  unfold romByte
  rw [h]

/-- `i`, of `len` bytes, is one of a page's three instructions, and `ra` is the program-memory address it gives: the
constant, the pointer's word, or their sum where that stays below 10000H (R270). -/
def RomForm (s : State) (n ra : Word) (o : WObj) (direct ind based i : Instr) (len : Nat) : Prop :=
  (i = direct ∧ len = 4 ∧ ra = n) ∨ (i = ind ∧ len = o.prefixLen + 1 ∧ loadW s o = .ok ra) ∨
    ∃ p, i = based ∧ len = o.prefixLen + 3 ∧ loadW s o = .ok p ∧ ra.toNat = n.toNat + p.toNat

/-- Where a page's three instructions are one operation `f` at the address of their form, the instruction that is met
is `f` at its own address. -/
theorem RomForm.exec_eq {s : State} {n ra : Word} {o : WObj} {direct ind based i : Instr} {len : Nat}
    (h : RomForm s n ra o direct ind based i len) (f : Word → Res State) (hdirect : exec direct s = finish 4 (f n))
    (hind : exec ind s = finish (o.prefixLen + 1) (loadW s o >>= f))
    (hbased : exec based s = finish (o.prefixLen + 3) (basedAddr s n o >>= f)) : exec i s = finish len (f ra) := by
  obtain ⟨rfl, rfl, rfl⟩ | ⟨rfl, rfl, hp⟩ | ⟨p, rfl, rfl, hp, hsum⟩ := h
  · exact hdirect
  · rw [hind, hp, Res.bind_ok]
  · have hrange : n.toNat + p.toNat ≤ 0xFFFF := by have := ra.isLt; omega
    have hra : ra = n + p := BitVec.eq_of_toNat_eq (by rw [BitVec.toNat_add, hsum]; omega)
    rw [hbased, basedAddr_ok hp hrange, Res.bind_ok, hra]

/-! LC and LCB. -/

/-- Settles O33: every form is `romLoadW` or `romLoadB` at its address. -/
theorem romLoad : Obligations.RomLoad := by
  refine fun s n ra o i len hpc => ⟨fun lo hi hform hra hlo hhi => ?_, fun b hform hb => ?_⟩
  · have hexec : exec i s = finish len (romLoadW s ra) := RomForm.exec_eq hform (romLoadW s) rfl rfl rfl
    have hnext := finish_read (romWord_ok hra hlo hhi) (fun v => (s.setA v).setFlag .zf (v == 0#16)) rfl hpc
    exact ⟨_, hexec.trans hnext, rfl, State.flag_setFlag_self _ .zf _, rfl,
      ((changes_setA s _ []).comp (changes_setFlag _ .zf _ [])).setPc _⟩
  · have hexec : exec i s = finish len (romLoadB s ra) := RomForm.exec_eq hform (romLoadB s) rfl rfl rfl
    have hnext := finish_read (romByte_ok hb) (fun v => (s.setAl v).setFlag .zf (v == 0#8)) rfl hpc
    exact ⟨_, hexec.trans hnext, State.al_setAl s b, State.flag_setFlag_self _ .zf _, rfl,
      ((changes_setAl s b []).comp (changes_setFlag _ .zf _ [])).setPc _⟩

/-! CMPC and CMPCB. -/

/-- The difference, which R370 takes of the operands as numbers, is that of bit vectors. -/
theorem alu_cmp_result {w : Nat} (a b : BitVec w) (c : Bool) : (alu .cmp a b c).result = a - b := by
  show BitVec.ofInt w ((a.toNat : Int) - b.toNat - 0) = a - b
  rw [Int.sub_zero, Int.sub_eq_add_neg, BitVec.ofInt_add, BitVec.ofInt_neg, BitVec.ofInt_natCast,
    BitVec.ofInt_natCast, BitVec.ofNat_toNat, BitVec.ofNat_toNat, BitVec.setWidth_eq, BitVec.setWidth_eq,
    ← BitVec.sub_eq_add_neg]

/-- The difference is 0 for equal operands alone. -/
theorem alu_cmp_zero {w : Nat} (a b : BitVec w) (c : Bool) : ((alu .cmp a b c).result == 0#w) = decide (a = b) := by
  rw [alu_cmp_result]
  exact decide_eq_decide.2 sub_eq_zero

theorem alu_cmp_carry {w : Nat} (a b : BitVec w) (c : Bool) :
    (alu .cmp a b c).carry = some (decide (a.toNat < b.toNat)) := rfl

/-- Settles O34: every form is `romCompareW` or `romCompareB` at its address, which write the flags of `alu .cmp`. -/
theorem romCompare : Obligations.RomCompare := by
  refine fun s n ra o i len hlegal hpc => ⟨fun lo hi hform hra hlo hhi => ?_, fun b hform hb => ?_⟩
  · have hexec : exec i s = finish len (romCompareW s ra) := RomForm.exec_eq hform (romCompareW s) rfl rfl rfl
    have hnext := finish_read (romWord_ok hra hlo hhi) (fun v => s.aluFlagsW (alu .cmp s.a v false))
      (aluFlagsW_pc _ _) hpc
    obtain ⟨hzf, hcf⟩ := aluFlagsW_spec hlegal.apart (alu .cmp s.a (mkWord hi lo) false)
    exact ⟨_, hexec.trans hnext, hzf.trans (alu_cmp_zero _ _ _), hcf _ (alu_cmp_carry _ _ _), rfl,
      (changes_aluFlagsW s _ []).setPc _⟩
  · have hexec : exec i s = finish len (romCompareB s ra) := RomForm.exec_eq hform (romCompareB s) rfl rfl rfl
    have hnext := finish_read (romByte_ok hb) (fun v => s.aluFlagsB (alu .cmp s.al v false)) (aluFlagsB_pc _ _) hpc
    obtain ⟨hzf, hcf, -⟩ := aluFlagsB_spec hlegal.apart (alu .cmp s.al b false)
    exact ⟨_, hexec.trans hnext, hzf.trans (alu_cmp_zero _ _ _), hcf _ (alu_cmp_carry _ _ _), rfl,
      (changes_aluFlagsB s _ []).setPc _⟩

end Sys2Proof.Machine
end

section
/-! Proofs about the eight ALU operations, their arithmetic and their forms (spec/45_arithmetic.md R290 to R298,
spec/46_logic.md R340 to R342, spec/47_compare.md R370, R371). -/

namespace Sys2Proof.Machine

/-! The operations as arithmetic, at every width (R293, R340, R370). -/

theorem addOut_result_toNat {w : Nat} (a b : BitVec w) (k : Bool) :
    (addOut a b k).result.toNat = (a.toNat + b.toNat + k.toNat) % 2 ^ w := BitVec.toNat_ofNat _ w

theorem subOut_result_toNat {w : Nat} (a b : BitVec w) (k : Bool) :
    ((subOut a b k).result.toNat : Int) = ((a.toNat : Int) - b.toNat - k.toNat) % 2 ^ w := by
  have hpow : ((2 ^ w : Nat) : Int) = 2 ^ w := Nat.cast_pow 2 w
  have hnonneg : 0 ≤ ((a.toNat : Int) - b.toNat - k.toNat) % 2 ^ w :=
    Int.emod_nonneg _ (pow_ne_zero w two_ne_zero)
  show ((BitVec.ofInt w ((a.toNat : Int) - b.toNat - k.toNat)).toNat : Int) = _
  rw [BitVec.toNat_ofInt, hpow, Int.toNat_of_nonneg hnonneg]

/-- Settles O35: ADD and ADC are `addOut` at their carry-in, SUB, SBC and CMP are `subOut` at theirs. -/
theorem aluIsExact : Obligations.AluIsExact := by
  refine fun w a b c => ⟨fun op k hop => ?_, fun op k hop => ?_, rfl, fun op hop => ?_, fun j _ => ?_⟩
  · simp only [List.mem_cons, Prod.mk.injEq, List.not_mem_nil, or_false] at hop
    obtain ⟨rfl, rfl⟩ | ⟨rfl, rfl⟩ := hop
    · exact ⟨addOut_result_toNat a b false, rfl, rfl⟩
    · exact ⟨addOut_result_toNat a b k, rfl, rfl⟩
  · simp only [List.mem_cons, Prod.mk.injEq, List.not_mem_nil, or_false] at hop
    obtain ⟨rfl, rfl⟩ | ⟨rfl, rfl⟩ | ⟨rfl, rfl⟩ := hop
    · exact ⟨subOut_result_toNat a b false, rfl, fun _ => rfl⟩
    · exact ⟨subOut_result_toNat a b k, rfl, fun _ => rfl⟩
    · exact ⟨subOut_result_toNat a b false, rfl, fun hne => absurd rfl hne⟩
  · simp only [List.mem_cons, List.not_mem_nil, or_false] at hop
    obtain rfl | rfl | rfl := hop <;> exact ⟨rfl, rfl⟩
  · exact ⟨BitVec.getLsbD_and, BitVec.getLsbD_or, BitVec.getLsbD_xor⟩

/-- What holds of every entry of a list of instructions and their operations holds of the one that is met. -/
theorem of_mem_ops {forms : List (Instr × AluOp)} {i : Instr} {op : AluOp} (hi : (i, op) ∈ forms)
    (P : Instr → AluOp → Prop) (h : forms.Forall fun x => P x.1 x.2) : P i op :=
  List.forall_iff_forall_mem.1 h _ hi

/-! The accumulator forms under the DD that makes them word instructions (R108, R137, R291). -/

section WordAccumulator
variable {s : State} (hdd : s.dd = true) (op : AluOp)
include hdd

theorem aluImmW_word (n : Word) : aluImmW op n s = finish 3 (.ok (s.aluAccW op n)) := if_pos hdd

theorem aluReg_word (e : BitVec 2) :
    aluReg op (e.setWidth 3) s = finish 1 (loadW s (.er e) >>= fun v => .ok (s.aluAccW op v)) := by
  unfold aluReg
  rw [if_pos hdd, wordRegister_setWidth, Res.bind_ok]

theorem aluOff_word (d : Byte) :
    aluOff op d s = finish 2 (loadW s (.off d) >>= fun v => .ok (s.aluAccW op v)) := congrArg (finish 2) (if_pos hdd)

theorem aluAObjW_word (o : WObj) :
    aluAObjW op o s = finish (o.prefixLen + 1) (loadW s o >>= fun v => .ok (s.aluAccW op v)) := if_pos hdd

end WordAccumulator

/-- Settles O36: under DD = 1 every form reads its operand and is then `State.aluAccW`. -/
theorem aluAccumulatorWord : Obligations.AluAccumulatorWord := by
  intro s n v d e o i op len hlegal hdd hpc hforms
  obtain ⟨ha, hzf, hcf, hpcAlu, hchanges⟩ := aluAccW_spec s hlegal.apart op v
  have hexec : exec i s = .next ((s.aluAccW op v).setPc (s.pc + BitVec.ofNat 16 len)) := by
    obtain ⟨hi, rfl, rfl⟩ | ⟨hi, hv, rfl⟩ | ⟨hi, hv, rfl⟩ | ⟨hi, hv, rfl⟩ := hforms
    · have hform := of_mem_ops hi (fun i op => exec i s = aluImmW op v s)
        ⟨rfl, rfl, rfl, rfl, rfl, rfl, rfl, rfl⟩
      rw [hform, aluImmW_word hdd]
      exact finish_next rfl hpcAlu hpc
    · have hform := of_mem_ops hi (fun i op => exec i s = aluReg op (e.setWidth 3) s)
        ⟨rfl, rfl, rfl, rfl, rfl, rfl, rfl⟩
      rw [hform, aluReg_word hdd]
      exact finish_read hv (s.aluAccW op) hpcAlu hpc
    · have hform := of_mem_ops hi (fun i op => exec i s = aluOff op d s)
        ⟨rfl, rfl, rfl, rfl, rfl, rfl, rfl, rfl⟩
      rw [hform, aluOff_word hdd]
      exact finish_read hv (s.aluAccW op) hpcAlu hpc
    · have hform := of_mem_ops hi (fun i op => exec i s = aluAObjW op o s)
        ⟨rfl, rfl, rfl, rfl, rfl, rfl, rfl, rfl⟩
      rw [hform, aluAObjW_word hdd]
      exact finish_read hv (s.aluAccW op) hpcAlu hpc
  exact ⟨_, hexec, ha, hzf, hcf, rfl, hchanges.setPc _⟩

/-! The accumulator forms under the DD that makes them byte instructions (R108, R137, R291). -/

section ByteAccumulator
variable {s : State} (hdd : s.dd = false) (op : AluOp)
include hdd

theorem aluImmB_byte (n : Byte) : aluImmB op n s = finish 2 (.ok (s.aluAccB op n)) := if_neg (by simp [hdd])

theorem aluReg_byte (r : BitVec 3) :
    aluReg op r s = finish 1 (loadB s (.r r) >>= fun v => .ok (s.aluAccB op v)) :=
  congrArg (finish 1) (if_neg (by simp [hdd]))

theorem aluOff_byte (d : Byte) :
    aluOff op d s = finish 2 (loadB s (.off d) >>= fun v => .ok (s.aluAccB op v)) :=
  congrArg (finish 2) (if_neg (by simp [hdd]))

theorem aluAObjB_byte (o : BObj) :
    aluAObjB op o s = finish (o.prefixLen + 1) (loadB s o >>= fun v => .ok (s.aluAccB op v)) :=
  if_neg (by simp [hdd])

end ByteAccumulator

/-- Settles O37: under DD = 0 every form reads its operand and is then `State.aluAccB`. -/
theorem aluAccumulatorByte : Obligations.AluAccumulatorByte := by
  intro s v d r o i op len hlegal hdd hpc hforms
  obtain ⟨hal, hzf, hcf, hhc, hpcAlu, hchanges⟩ := aluAccB_spec s hlegal.apart op v
  have hexec : exec i s = .next ((s.aluAccB op v).setPc (s.pc + BitVec.ofNat 16 len)) := by
    obtain ⟨hi, rfl, rfl⟩ | ⟨hi, hv, rfl⟩ | ⟨hi, hv, rfl⟩ | ⟨hi, hv, rfl⟩ := hforms
    · have hform := of_mem_ops hi (fun i op => exec i s = aluImmB op v s)
        ⟨rfl, rfl, rfl, rfl, rfl, rfl, rfl, rfl⟩
      rw [hform, aluImmB_byte hdd]
      exact finish_next rfl hpcAlu hpc
    · have hform := of_mem_ops hi (fun i op => exec i s = aluReg op r s)
        ⟨rfl, rfl, rfl, rfl, rfl, rfl, rfl⟩
      rw [hform, aluReg_byte hdd]
      exact finish_read hv (s.aluAccB op) hpcAlu hpc
    · have hform := of_mem_ops hi (fun i op => exec i s = aluOff op d s)
        ⟨rfl, rfl, rfl, rfl, rfl, rfl, rfl, rfl⟩
      rw [hform, aluOff_byte hdd]
      exact finish_read hv (s.aluAccB op) hpcAlu hpc
    · have hform := of_mem_ops hi (fun i op => exec i s = aluAObjB op o s)
        ⟨rfl, rfl, rfl, rfl, rfl, rfl, rfl, rfl⟩
      rw [hform, aluAObjB_byte hdd]
      exact finish_read hv (s.aluAccB op) hpcAlu hpc
  exact ⟨_, hexec, hal, hzf, hcf, hhc, rfl, hchanges.setPc _⟩

/-! An object's result and then the flags of the operation (R34, R298, R342). -/

/-- A word result outside PSWH stands as it was written once the flags are written, and they come from the whole
result, whatever the object can hold of it (R298, R342). -/
theorem writeFlagsW_alu {s : State} {l : WLoc} {op : AluOp} {out : AluOut 16} (hop : out.flags = op.flags)
    (hlegal : legalConfig s.cfg) (hacc : l.accessible s.cfg = true) (hp : l.holdsPswh s.cfg = false) :
    ∃ t, writeFlagsW s l out.result (·.aluFlagsW out) = .ok t ∧ t.pc = s.pc ∧
      readW t l = .ok (out.result &&& l.mask s.cfg) ∧ t.flag .zf = (out.result == 0#16) ∧
      (∀ c, out.carry = some c → t.flag .cf = c) ∧
      Changes s t ((l.touches s.cfg).or (Touch.flags s.cfg op.flags)) l.bytes := by
  obtain ⟨t, ht, hwrote⟩ := writeFlagsW_ok out.result (·.aluFlagsW out) hacc hp
  have hcfg := hwrote.changes.cfg
  obtain ⟨hzf, hcf⟩ := aluFlagsW_spec (s := t) (hcfg ▸ hlegal.apart) out
  have hflags (st : List Word) := changes_aluFlagsW t out st
  rw [hcfg, hop] at hflags
  refine ⟨_, ht, (aluFlagsW_pc t out).trans hwrote.pc, ?_, hzf, hcf, hwrote.changes.comp (hflags l.bytes)⟩
  rw [readW_flags (hflags []) (fun _ _ => List.not_mem_nil) (hcfg ▸ hp)]
  exact hwrote.value

/-- The same of a byte, with HC; the flags lie in PSWH (spec/10_state.md R28), so a result in PSWL stands too. -/
theorem writeFlagsB_alu {s : State} {l : BLoc} {op : AluOp} {out : AluOut 8} (hop : out.flags = op.flags)
    (hlegal : legalConfig s.cfg) (hacc : l.accessible s.cfg = true) (hp : l.holdsPswh s.cfg = false) :
    ∃ t, writeFlagsB s l out.result (·.aluFlagsB out) = .ok t ∧ t.pc = s.pc ∧
      readB t l = .ok (out.result &&& l.mask s.cfg) ∧ t.flag .zf = (out.result == 0#8) ∧
      (∀ c, out.carry = some c → t.flag .cf = c) ∧ (∀ h, out.half = some h → t.flag .hc = h) ∧
      Changes s t ((l.touches s.cfg).or (Touch.flags s.cfg op.flags)) l.bytes := by
  obtain ⟨t, ht, hwrote⟩ := writeFlagsB_ok out.result (·.aluFlagsB out) hacc hp
  have hcfg := hwrote.changes.cfg
  obtain ⟨hzf, hcf, hhc⟩ := aluFlagsB_spec (s := t) (hcfg ▸ hlegal.apart) out
  have hflags (st : List Word) := changes_aluFlagsB t out st
  rw [hcfg, hop] at hflags
  refine ⟨_, ht, (aluFlagsB_pc t out).trans hwrote.pc, ?_, hzf, hcf, hhc, hwrote.changes.comp (hflags l.bytes)⟩
  rw [readB_flags (hflags []) (fun _ _ => List.not_mem_nil) (hcfg ▸ hp) (aluOp_flags_high hlegal.apart op)]
  exact hwrote.value

/-! The object forms: the object and the source are read, and a compare writes its flags alone (R293, R370). -/

theorem aluObjW_of_read {s : State} {o : WObj} {l : WLoc} {v b : Word} {source : State → Res Word}
    (hl : wordLoc s o = .ok l) (hv : readW s l = .ok v) (hb : source s = .ok b) (op : AluOp) :
    aluObjW op o source s =
      if op.stores then
        writeFlagsW s l (alu op v b (s.flag .cf)).result (·.aluFlagsW (alu op v b (s.flag .cf)))
      else .ok (s.aluFlagsW (alu op v b (s.flag .cf))) := by
  unfold aluObjW
  simp only [hl, hv, hb, Res.bind_ok]

theorem aluObjB_of_read {s : State} {o : BObj} {l : BLoc} {v b : Byte} {source : State → Res Byte}
    (hl : byteLoc s o = .ok l) (hv : readB s l = .ok v) (hb : source s = .ok b) (op : AluOp) :
    aluObjB op o source s =
      if op.stores then
        writeFlagsB s l (alu op v b (s.flag .cf)).result (·.aluFlagsB (alu op v b (s.flag .cf)))
      else .ok (s.aluFlagsB (alu op v b (s.flag .cf))) := by
  unfold aluObjB
  simp only [hl, hv, hb, Res.bind_ok]

/-- Outside PSWH the logical operations with a constant are the shared byte form (R342). -/
theorem logicImmB_eq_aluObjB {s : State} {o : BObj} {l : BLoc} {v : Byte} (hl : byteLoc s o = .ok l)
    (hv : readB s l = .ok v) (hp : l.holdsPswh s.cfg = false) {op : AluOp} (hop : op.stores = true) (n : Byte) :
    logicImmB op o n s = aluObjB op o (fun _ => .ok n) s := by
  rw [aluObjB_of_read hl hv rfl, if_pos hop]
  unfold logicImmB writeFlagsB
  simp only [hl, hv, hp, Res.bind_ok, cond_false, Bool.false_eq_true, if_false]

/-- A word form on an object that reads `v` with a source that reads `b`: the result, the flags and the frame. -/
theorem finish_aluObjW {s : State} {o : WObj} {l : WLoc} {v b : Word} {source : State → Res Word} {op : AluOp}
    {len : Nat} (hlegal : legalConfig s.cfg) (hpc : s.pc.toNat + len ≤ 0xFFFF) (hl : wordLoc s o = .ok l)
    (hv : readW s l = .ok v) (hp : op.stores = true → l.holdsPswh s.cfg = false) (hb : source s = .ok b) :
    ∃ t, finish len (aluObjW op o source s) = .next t ∧
      (op.stores = true → readW t l = .ok ((alu op v b (s.flag .cf)).result &&& l.mask s.cfg)) ∧
      t.flag .zf = ((alu op v b (s.flag .cf)).result == 0#16) ∧
      (∀ c, (alu op v b (s.flag .cf)).carry = some c → t.flag .cf = c) ∧
      t.pc = s.pc + BitVec.ofNat 16 len ∧
      Changes s t ((if op.stores then l.touches s.cfg else Touch.nothing).or (Touch.flags s.cfg op.flags))
        (if op.stores then l.bytes else []) := by
  rw [aluObjW_of_read hl hv hb]
  have hflags := alu_flags op v b (s.flag .cf)
  generalize alu op v b (s.flag .cf) = out at hflags ⊢
  cases hstores : op.stores with
  | true =>
    obtain ⟨t, ht, hpct, hval, hzf, hcf, hchanges⟩ :=
      writeFlagsW_alu hflags hlegal (WLoc.accessible_of_readW hv) (hp hstores)
    exact ⟨_, finish_next ht hpct hpc, fun _ => (readW_setPc t _ l).trans hval, hzf, hcf, rfl, hchanges.setPc _⟩
  | false =>
    obtain ⟨hzf, hcf⟩ := aluFlagsW_spec hlegal.apart out
    exact ⟨_, finish_next rfl (aluFlagsW_pc s out) hpc, nofun, hzf, hcf, rfl,
      ((Changes.refl s Touch.nothing []).comp (hflags ▸ changes_aluFlagsW s out [])).setPc _⟩

/-- A byte form on an object that reads `v` with a source that reads `b`: the result, the flags and the frame. -/
theorem finish_aluObjB {s : State} {o : BObj} {l : BLoc} {v b : Byte} {source : State → Res Byte} {op : AluOp}
    {len : Nat} (hlegal : legalConfig s.cfg) (hpc : s.pc.toNat + len ≤ 0xFFFF) (hl : byteLoc s o = .ok l)
    (hv : readB s l = .ok v) (hp : op.stores = true → l.holdsPswh s.cfg = false) (hb : source s = .ok b) :
    ∃ t, finish len (aluObjB op o source s) = .next t ∧
      (op.stores = true → readB t l = .ok ((alu op v b (s.flag .cf)).result &&& l.mask s.cfg)) ∧
      t.flag .zf = ((alu op v b (s.flag .cf)).result == 0#8) ∧
      (∀ c, (alu op v b (s.flag .cf)).carry = some c → t.flag .cf = c) ∧
      (∀ h, (alu op v b (s.flag .cf)).half = some h → t.flag .hc = h) ∧
      t.pc = s.pc + BitVec.ofNat 16 len ∧
      Changes s t ((if op.stores then l.touches s.cfg else Touch.nothing).or (Touch.flags s.cfg op.flags))
        (if op.stores then l.bytes else []) := by
  rw [aluObjB_of_read hl hv hb]
  have hflags := alu_flags op v b (s.flag .cf)
  generalize alu op v b (s.flag .cf) = out at hflags ⊢
  cases hstores : op.stores with
  | true =>
    obtain ⟨t, ht, hpct, hval, hzf, hcf, hhc, hchanges⟩ :=
      writeFlagsB_alu hflags hlegal (BLoc.accessible_of_readB hv) (hp hstores)
    exact ⟨_, finish_next ht hpct hpc, fun _ => (readB_setPc t _ l).trans hval, hzf, hcf, hhc, rfl,
      hchanges.setPc _⟩
  | false =>
    obtain ⟨hzf, hcf, hhc⟩ := aluFlagsB_spec hlegal.apart out
    exact ⟨_, finish_next rfl (aluFlagsB_pc s out) hpc, nofun, hzf, hcf, hhc, rfl,
      ((Changes.refl s Touch.nothing []).comp (hflags ▸ changes_aluFlagsB s out [])).setPc _⟩

/-- Settles O38: every form is `aluObjW` with its source. -/
theorem aluObjectWord : Obligations.AluObjectWord := by
  intro s n v b d o l i op len hlegal hpc hl hv hp hforms
  have spec (source : State → Res Word) (hb : source s = .ok b) :=
    finish_aluObjW (source := source) hlegal hpc hl hv hp hb
  obtain ⟨hi, rfl, rfl⟩ | ⟨hi, hb, rfl⟩ | ⟨hi, rfl, rfl⟩ := hforms
  · have hform := of_mem_ops hi (fun i op => exec i s = finish (o.prefixLen + 1) (aluObjW op o (fun s => .ok s.a) s))
      ⟨rfl, rfl, rfl, rfl, rfl, rfl, rfl, rfl⟩
    rw [hform]
    exact spec _ rfl
  · have hform := of_mem_ops hi (fun i op => exec i s = finish (o.prefixLen + 2) (aluObjW op o (loadW · (.off d)) s))
      ⟨rfl, rfl, rfl, rfl, rfl, rfl, rfl, rfl⟩
    rw [hform]
    exact spec _ hb
  · have hform := of_mem_ops hi (fun i op => exec i s = finish (o.prefixLen + 3) (aluObjW op o (fun _ => .ok b) s))
      ⟨rfl, rfl, rfl, rfl, rfl, rfl, rfl, rfl⟩
    rw [hform]
    exact spec _ rfl

/-- Settles O39: every form is `aluObjB` with its source; for ANDB, ORB and XORB with a constant, outside PSWH. -/
theorem aluObjectByte : Obligations.AluObjectByte := by
  intro s n v b d o l i op len hlegal hpc hl hv hp hforms
  have spec (source : State → Res Byte) (hb : source s = .ok b) :=
    finish_aluObjB (source := source) hlegal hpc hl hv hp hb
  obtain ⟨hi, rfl, rfl⟩ | ⟨hi, hb, rfl⟩ | ⟨hi, rfl, rfl⟩ := hforms
  · have hform := of_mem_ops hi (fun i op => exec i s = finish (o.prefixLen + 1) (aluObjB op o (fun s => .ok s.al) s))
      ⟨rfl, rfl, rfl, rfl, rfl, rfl, rfl, rfl⟩
    rw [hform]
    exact spec _ rfl
  · have hform := of_mem_ops hi (fun i op => exec i s = finish (o.prefixLen + 2) (aluObjB op o (loadB · (.off d)) s))
      ⟨rfl, rfl, rfl, rfl, rfl, rfl, rfl, rfl⟩
    rw [hform]
    exact spec _ hb
  · have logic (op : AluOp) (hop : op.stores = true) (hp : op.stores = true → l.holdsPswh s.cfg = false) :
        finish (o.prefixLen + 2) (logicImmB op o b s) = finish (o.prefixLen + 2) (aluObjB op o (fun _ => .ok b) s) :=
      congrArg _ (logicImmB_eq_aluObjB hl hv (hp hop) hop b)
    have hform : exec i s = finish (o.prefixLen + 2) (aluObjB op o (fun _ => .ok b) s) :=
      of_mem_ops hi (fun i op => (op.stores = true → l.holdsPswh s.cfg = false) →
          exec i s = finish (o.prefixLen + 2) (aluObjB op o (fun _ => .ok b) s))
        ⟨fun _ => rfl, fun _ => rfl, fun _ => rfl, fun _ => rfl, fun _ => rfl, logic .and rfl, logic .or rfl,
          logic .xor rfl⟩ hp
    rw [hform]
    exact spec _ rfl

end Sys2Proof.Machine
end

section
/-! Proofs about MUL, MULB, DIV and DIVB, whose results lie in A and in local registers (spec/45_arithmetic.md R300
to R304).
Theorems stand under `Arithmetic` where the model's own function has the name of the obligation. -/

namespace Sys2Proof.Machine

/-! A number below 10000H as a word. -/

theorem ofNat_beq_zero {n : Nat} (h : n < 65536) : (BitVec.ofNat 16 n == 0#16) = decide (n = 0) := by
  refine decide_eq_decide.2 ⟨fun hzero => ?_, fun hzero => hzero ▸ rfl⟩
  have hmod : n % 65536 = 0 := congrArg BitVec.toNat hzero
  omega

theorem loByte_ofNat (n : Nat) : loByte (BitVec.ofNat 16 n) = BitVec.ofNat 8 n := by
  apply BitVec.eq_of_toNat_eq
  unfold loByte
  rw [BitVec.extractLsb'_toNat, BitVec.toNat_ofNat, BitVec.toNat_ofNat, Nat.shiftRight_zero]
  omega

/-! Where a local register lies apart from A, and where it lies over AH (spec/10_state.md R36, R41, R42). -/

theorem WLoc.touches_acc {c : Config} {ea : Word} (h : regAt c ea ≠ some .acc) (k : Nat) :
    (WLoc.mem ea).touches c .acc k = false := by
  simp only [WLoc.touches]
  cases hreg : regAt c ea with
  | none => rfl
  | some r =>
    cases r with
    | acc => exact absurd hreg h
    | _ => rfl

theorem BLoc.touches_acc {c : Config} {ea : Word} (h : regAt c ea ≠ some .acc) (k : Nat) :
    (BLoc.mem ea).touches c .acc k = false := by
  simp only [BLoc.touches]
  cases hreg : regAt c ea with
  | none => rfl
  | some r =>
    cases r with
    | acc => exact absurd hreg h
    | _ => rfl

/-- A word written to data memory is what A then holds where it lies over A, and else leaves A. -/
theorem WroteW.a {s t : State} {ea v : Word} (h : WroteW s t (.mem ea) v) :
    t.a = if regAt s.cfg ea = some .acc then v else s.a := by
  split
  · next hreg => exact h.a_of_isAcc (WLoc.isAcc_iff.2 ⟨ea, rfl, hreg⟩)
  · next hreg => exact h.changes.a (WLoc.touches_acc hreg)

/-- A byte written at an odd address is what AH then holds where it lies over A, and else leaves A. -/
theorem WroteB.a_of_odd {s t : State} {ea : Word} {v : Byte} (h : WroteB s t (.mem ea) v)
    (hodd : ea.getLsbD 0 = true) : t.a = if regAt s.cfg ea = some .acc then mkWord v (loByte s.a) else s.a := by
  split
  · next hreg =>
    have hread : readB t (.mem ea) = .ok (hiByte t.a) := by
      show readByte t ea = .ok (hiByte t.a)
      rw [readByte_reg (h.changes.cfg ▸ hreg), hodd]
      rfl
    have hmask : (BLoc.mem ea).mask s.cfg = 0xFF#8 := by
      simp only [BLoc.mask, hreg]
      rfl
    have hval := Except.ok.inj (hread.symm.trans h.value)
    rw [hmask] at hval
    have hhi : hiByte t.a = v := hval.trans BitVec.and_allOnes
    have hlo : loByte t.a = loByte s.a := byteOf_congr (high := false) fun k hk =>
      h.changes.regs .acc k (by
        simp only [BLoc.touches, hreg, Touch.half, hodd]
        simpa using hk)
    rw [← mkWord_bytes t.a, hhi, hlo]
  · next hreg => exact h.changes.a (BLoc.touches_acc hreg)

/-- r1 lies at an odd address (R41). -/
theorem rAddr_one_odd (s : State) : (rAddr s 1).getLsbD 0 = true := by
  rw [getLsbD_zero_eq, rAddr_toNat]
  have hone : (1 : BitVec 3).toNat = 1 := rfl
  rw [hone]
  exact decide_eq_true (by omega)

/-- er0 and er1 lie at two words (R42). -/
theorem erAddr_apart (s : State) : (erAddr s 0).toNat / 2 ≠ (erAddr s 1).toNat / 2 := by
  rw [erAddr_toNat, erAddr_toNat]
  have hzero : (0 : BitVec 2).toNat = 0 := rfl
  have hone : (1 : BitVec 2).toNat = 1 := rfl
  omega

theorem Touch.or_left_comm (f g h : Touch) : f.or (g.or h) = g.or (f.or h) :=
  funext fun _ => funext fun _ => Bool.or_left_comm _ _ _

theorem Touch.or_assoc (f g h : Touch) : (f.or g).or h = f.or (g.or h) :=
  funext fun _ => funext fun _ => Bool.or_assoc _ _ _

/-! MUL and MULB. -/

theorem multiply_of_load {s : State} {b : Word} (hb : loadW s (.er 0) = .ok b) :
    multiply s = writeFlagsW s (.mem (erAddr s 1)) (BitVec.ofNat 16 (s.a.toNat * b.toNat / 65536)) fun t =>
      (t.setA (BitVec.ofNat 16 (s.a.toNat * b.toNat))).wideZero (s.a.toNat * b.toNat)
        (s.a.toNat * b.toNat % 65536) := by
  unfold multiply
  simp only [hb, wordLoc, Res.bind_ok]

/-- ZF written for a number and its low word, as MUL and DIV write it, stands as R300 and R302 fix it. -/
theorem wideZero_mod (t : State) (n : Nat) :
    (n = 0 → (t.wideZero n (n % 65536)).flag .zf = true) ∧
      (n % 65536 ≠ 0 → (t.wideZero n (n % 65536)).flag .zf = false) :=
  wideZero_spec t n (n % 65536) fun h => by rw [h]

/-- A data word outside A and PSW reads the same after A and ZF are written. -/
theorem readWord_setA_wideZero {t : State} {ea : Word} (hreg : regAt t.cfg ea ≠ some .acc)
    (hp : (WLoc.mem ea).holdsPswh t.cfg = false) (v : Word) (n low : Nat) :
    readWord ((t.setA v).wideZero n low) ea = readWord t ea :=
  calc readW ((t.setA v).wideZero n low) (.mem ea)
      = readW (t.setA v) (.mem ea) :=
        readW_flags (changes_wideZero (t.setA v) n low []) (fun _ _ => List.not_mem_nil) hp
    _ = readW t (.mem ea) := readW_setA v fun x hx => by cases hx; exact hreg

/-- Settles O41: MUL writes er1, then A, then ZF, so er1 still holds the high word unless it lies over A. -/
theorem Arithmetic.multiply : Obligations.Multiply := by
  refine fun s hpc => ⟨fun b _ hb hacc hp => ?_, fun c hc => ?_⟩
  · generalize hprod : s.a.toNat * b.toNat = p
    obtain ⟨t, ht, hwrote⟩ := writeFlagsW_ok (BitVec.ofNat 16 (p / 65536))
      (fun t => (t.setA (BitVec.ofNat 16 p)).wideZero p (p % 65536)) hacc hp
    have hmul : Machine.multiply s = .ok ((t.setA (BitVec.ofNat 16 p)).wideZero p (p % 65536)) := by
      rw [multiply_of_load hb, hprod, ht]
    have hcfg := hwrote.changes.cfg
    have hflag := changes_wideZero (t.setA (BitVec.ofNat 16 p)) p (p % 65536) (WLoc.mem (erAddr s 1)).bytes
    rw [State.setA_cfg, hcfg] at hflag
    obtain ⟨hzero, hnonzero⟩ := wideZero_mod (t.setA (BitVec.ofNat 16 p)) p
    refine ⟨_, finish_next hmul ((wideZero_pc _ _ _).trans hwrote.pc) hpc, wideZero_a _ _ _, fun hreg => ?_, hzero,
      hnonzero, rfl, Changes.setPc ?_ _⟩
    · exact (readWord_setA_wideZero (hcfg ▸ hreg) (hcfg ▸ hp) _ _ _).trans hwrote.value
    · rw [Touch.or_left_comm]
      exact hwrote.changes.comp ((changes_setA t _ _).comp hflag)
  · have hsmall : s.al.toNat * c.toNat < 65536 := Nat.mul_lt_mul'' s.al.isLt c.isLt
    have hnext := finish_read hc (fun c => (s.setA (BitVec.ofNat 16 (s.al.toNat * c.toNat))).setFlag .zf
      (BitVec.ofNat 16 (s.al.toNat * c.toNat) == 0#16)) rfl hpc
    exact ⟨_, hnext, rfl, (State.flag_setFlag_self _ .zf _).trans (ofNat_beq_zero hsmall), rfl,
      ((changes_setA s _ []).comp (changes_setFlag _ .zf _ [])).setPc _⟩

/-! CF and then ZF, the flags of a division. -/

/-- A write of CF and then of ZF, and of nothing else. -/
structure WritesCfThenZf (b : Bool) (f : State → State) : Prop where
  pc : ∀ t, (f t).pc = t.pc
  changes : ∀ t, Changes (t.setFlag .cf b) (f t) (Touch.flags t.cfg [.zf]) []

/-- CF stands as it was written, and the two flags are all that changes. -/
theorem WritesCfThenZf.spec {b : Bool} {f : State → State} (h : WritesCfThenZf b f) {t : State}
    (hf : FlagsApart t.cfg) :
    (f t).flag .cf = b ∧ Changes t (f t) (Touch.flags t.cfg [.zf, .cf]) [] := by
  have hzf := h.changes t
  refine ⟨(hzf.flag .cf ?_).trans (State.flag_setFlag_self t .cf b),
    ((changes_setFlag t .cf b []).comp hzf).mono (fun r k hk => ?_) fun _ h => h⟩
  · simpa [Touch.flags] using hf.cf_zf
  · simp only [Touch.or, Touch.flags, List.any_cons, List.any_nil, Bool.or_false] at hk ⊢
    rw [← Bool.and_or_distrib_left, Bool.or_comm, hk]

theorem writesCfThenZf_freeFlag (b : Bool) : WritesCfThenZf b fun t => (t.setFlag .cf b).freeFlag .zf :=
  ⟨fun _ => rfl, fun t => changes_freeFlag (t.setFlag .cf b) .zf []⟩

theorem writesCfThenZf_wideZero (b : Bool) (n low : Nat) :
    WritesCfThenZf b fun t => (t.setFlag .cf b).wideZero n low :=
  ⟨fun _ => wideZero_pc _ _ _, fun t => changes_wideZero (t.setFlag .cf b) n low []⟩

theorem writesCfThenZf_setFlag (b z : Bool) : WritesCfThenZf b fun t => (t.setFlag .cf b).setFlag .zf z :=
  ⟨fun _ => rfl, fun t => changes_setFlag (t.setFlag .cf b) .zf z []⟩

/-! DIV. -/

/-- What a division writes: er0 at `x`, A, er1 at `y`, and then the flags `f`. -/
def storeQuotient (s : State) (x y q1 q0 r : Word) (f : State → State) : Res State :=
  writeW s (.mem x) q1 >>= fun t => writeFlagsW (t.setA q0) (.mem y) r f

/-- The results of a division of `s` stand in `t`: where er1 lies over A, A holds the remainder, which is written
last; where er0 does, A holds the low word. -/
structure HoldsQuotient (s t : State) (x y q1 q0 r : Word) : Prop where
  a : t.a = if regAt s.cfg y = some .acc then r else q0
  high : regAt s.cfg x ≠ some .acc → readWord t x = .ok (q1 &&& (WLoc.mem x).mask s.cfg)
  remainder : readWord t y = .ok (r &&& (WLoc.mem y).mask s.cfg)

/-- Two data words apart show no register twice (R36), so the write of one leaves the other. -/
theorem WroteW.readWord_apart {s t : State} {x y v : Word} (h : WroteW s t (.mem y) v)
    (hxy : x.toNat / 2 ≠ y.toNat / 2) : readWord t x = readWord s x := by
  refine readW_of_changes (l := .mem x) h.changes (word_bytes_apart hxy) fun r k hk => ?_
  cases hx : regAt s.cfg x with
  | none => simp [WLoc.touches, hx, Touch.nothing] at hk
  | some q =>
    obtain rfl : r = q := by simpa [WLoc.touches, hx, Touch.all] using hk
    cases hy : regAt s.cfg y with
    | none => simp [WLoc.touches, hy, Touch.nothing]
    | some p =>
      have hne : r ≠ p := by
        rintro rfl
        have heven := congrArg BitVec.toNat (regAt_apart hx hy)
        rw [evenAddr_toNat, evenAddr_toNat] at heven
        omega
      simp [WLoc.touches, hy, Touch.all, hne]

/-- The results of a division go through where both words can be written outside PSW, and stand until the flags. -/
theorem storeQuotient_ok {s : State} {x y : Word} (q1 q0 r : Word) (f : State → State)
    (hxy : x.toNat / 2 ≠ y.toNat / 2) (hx : (WLoc.mem x).accessible s.cfg = true)
    (hy : (WLoc.mem y).accessible s.cfg = true) (hp : (WLoc.mem y).holdsPswh s.cfg = false) :
    ∃ u, storeQuotient s x y q1 q0 r f = .ok (f u) ∧ u.pc = s.pc ∧ HoldsQuotient s u x y q1 q0 r ∧
      Changes s u ((Touch.all .acc).or (((WLoc.mem x).touches s.cfg).or ((WLoc.mem y).touches s.cfg)))
        ((WLoc.mem x).bytes ++ (WLoc.mem y).bytes) := by
  obtain ⟨t, ht⟩ := writeW_total q1 hx
  have hwrote := writeW_wrote ht
  have hcfg : (t.setA q0).cfg = s.cfg := hwrote.changes.cfg
  obtain ⟨u, hu, hwroteRem⟩ := writeFlagsW_ok (s := t.setA q0) r f (hcfg ▸ hy) (hcfg ▸ hp)
  have hstore : storeQuotient s x y q1 q0 r f = .ok (f u) := by
    unfold storeQuotient
    rw [ht, Res.bind_ok, hu]
  refine ⟨u, hstore, hwroteRem.pc.trans hwrote.pc, ⟨hcfg ▸ hwroteRem.a, fun hreg => ?_, hcfg ▸ hwroteRem.value⟩, ?_⟩
  · calc readWord u x
        = readWord (t.setA q0) x := hwroteRem.readWord_apart hxy
      _ = readWord t x := readW_setA (l := .mem x) q0 fun ea hea => by
          cases hea; rw [hwrote.changes.cfg]; exact hreg
      _ = .ok (q1 &&& (WLoc.mem x).mask s.cfg) := hwrote.value
  · have hfirst := hwrote.changes.mono (fun _ _ h => h) (fun _ => List.mem_append_left (WLoc.mem y).bytes)
    have hlast := hwroteRem.changes.mono (fun _ _ h => h) (fun _ => List.mem_append_right (WLoc.mem x).bytes)
    rw [hcfg] at hlast
    rw [Touch.or_left_comm]
    exact hfirst.comp ((changes_setA t q0 _).comp hlast)

/-- The results stand outside PSW while flags are written. -/
theorem HoldsQuotient.flags {s u v : State} {x y q1 q0 r : Word} {c : Config} {fs : List Flag}
    (h : HoldsQuotient s u x y q1 q0 r) (hcfg : u.cfg = s.cfg) (hf : Changes u v (Touch.flags c fs) [])
    (hx : (WLoc.mem x).holdsPswh s.cfg = false) (hy : (WLoc.mem y).holdsPswh s.cfg = false) :
    HoldsQuotient s v x y q1 q0 r where
  a := (hf.a fun _ => rfl).trans h.a
  high hreg := (readW_flags (l := .mem x) hf (fun _ _ => List.not_mem_nil) (hcfg ▸ hx)).trans (h.high hreg)
  remainder := (readW_flags (l := .mem y) hf (fun _ _ => List.not_mem_nil) (hcfg ▸ hy)).trans h.remainder

/-- Everything a division does: its results, and then CF and ZF. -/
theorem storeQuotient_flags {s : State} {x y : Word} (q1 q0 r : Word) {b : Bool} {f : State → State}
    (hf : WritesCfThenZf b f) (hapart : FlagsApart s.cfg) (hxy : x.toNat / 2 ≠ y.toNat / 2)
    (hx : (WLoc.mem x).accessible s.cfg = true) (hy : (WLoc.mem y).accessible s.cfg = true)
    (hpx : (WLoc.mem x).holdsPswh s.cfg = false) (hpy : (WLoc.mem y).holdsPswh s.cfg = false) :
    ∃ u, storeQuotient s x y q1 q0 r f = .ok (f u) ∧ (f u).pc = s.pc ∧ (f u).flag .cf = b ∧
      HoldsQuotient s (f u) x y q1 q0 r ∧
      Changes s (f u) ((Touch.all .acc).or (((WLoc.mem x).touches s.cfg).or
        (((WLoc.mem y).touches s.cfg).or (Touch.flags s.cfg [.zf, .cf]))))
        ((WLoc.mem x).bytes ++ (WLoc.mem y).bytes) := by
  obtain ⟨u, hu, hpc, hholds, hchanges⟩ := storeQuotient_ok q1 q0 r f hxy hx hy hpy
  have hcfg := hchanges.cfg
  obtain ⟨hcf, hflags⟩ := hf.spec (t := u) (hcfg ▸ hapart)
  rw [hcfg] at hflags
  rw [← Touch.or_assoc ((WLoc.mem x).touches s.cfg), ← Touch.or_assoc (Touch.all .acc)]
  exact ⟨u, hu, (hf.pc u).trans hpc, hcf, hholds.flags hcfg hflags hpx hpy, hchanges.comp hflags.stored⟩

theorem divide_by_zero {s : State} {hi : Word} (hhi : loadW s (.er 0) = .ok hi) (hd : loadW s (.er 2) = .ok 0#16)
    (hp : (WLoc.mem (erAddr s 0)).holdsPswh s.cfg = false) :
    divide s = storeQuotient s.draw.2.draw.2.draw.2 (erAddr s 0) (erAddr s 1) s.draw.1 s.draw.2.draw.1
      s.draw.2.draw.2.draw.1 fun t => (t.setFlag .cf true).freeFlag .zf := by
  unfold divide storeQuotient
  simp only [hhi, hd, hp, wordLoc, Res.bind_ok, Bool.false_eq_true, if_false]
  rfl

theorem divide_by_nonzero {s : State} {hi d : Word} (hhi : loadW s (.er 0) = .ok hi)
    (hd : loadW s (.er 2) = .ok d) (hne : d ≠ 0#16) (hp : (WLoc.mem (erAddr s 0)).holdsPswh s.cfg = false) :
    divide s = storeQuotient s (erAddr s 0) (erAddr s 1)
      (BitVec.ofNat 16 ((hi.toNat * 65536 + s.a.toNat) / d.toNat / 65536))
      (BitVec.ofNat 16 ((hi.toNat * 65536 + s.a.toNat) / d.toNat))
      (BitVec.ofNat 16 ((hi.toNat * 65536 + s.a.toNat) % d.toNat)) fun t =>
      (t.setFlag .cf false).wideZero ((hi.toNat * 65536 + s.a.toNat) / d.toNat)
        ((hi.toNat * 65536 + s.a.toNat) / d.toNat % 65536) := by
  unfold divide storeQuotient
  have hne' : ¬ d = 0 := hne
  simp only [hhi, hd, hp, hne', wordLoc, Res.bind_ok, Bool.false_eq_true, if_false]

/-! DIVB. -/

/-- What DIVB writes after A: r1 at `l`, and then CF and ZF. -/
theorem writeFlagsB_cf_zf {s : State} {l : BLoc} (v : Byte) {b : Bool} {f : State → State}
    (hf : WritesCfThenZf b f) (hlegal : legalConfig s.cfg) (hacc : l.accessible s.cfg = true)
    (hp : l.holdsPswh s.cfg = false) :
    ∃ u, writeFlagsB s l v f = .ok (f u) ∧ (f u).pc = s.pc ∧ (f u).flag .cf = b ∧ WroteB s u l v ∧ (f u).a = u.a ∧
      readB (f u) l = .ok (v &&& l.mask s.cfg) ∧
      Changes s (f u) ((l.touches s.cfg).or (Touch.flags s.cfg [.zf, .cf])) l.bytes := by
  obtain ⟨u, hu, hwrote⟩ := writeFlagsB_ok v f hacc hp
  have hcfg := hwrote.changes.cfg
  obtain ⟨hcf, hflags⟩ := hf.spec (t := u) (hcfg ▸ hlegal.apart)
  rw [hcfg] at hflags
  have hhigh : ∀ g ∈ [Flag.zf, .cf], 8 ≤ g.bit s.cfg := by
    simpa using ⟨hlegal.apart.zf_high, hlegal.apart.cf_high⟩
  have hread := readB_flags hflags (fun _ _ => List.not_mem_nil) (hcfg ▸ hp) hhigh
  exact ⟨u, hu, (hf.pc u).trans hwrote.pc, hcf, hwrote, hflags.a fun _ => rfl, hread.trans hwrote.value,
    hwrote.changes.comp hflags.stored⟩

theorem divideB_by_zero {s : State} (hd : loadB s (.r 0) = .ok 0#8) :
    divideB s = writeFlagsB (s.draw.2.draw.2.setA s.draw.1) (.mem (rAddr s 1)) (loByte s.draw.2.draw.1) fun t =>
      (t.setFlag .cf true).freeFlag .zf := by
  unfold divideB
  simp only [hd, byteLoc, Res.bind_ok]
  rfl

theorem divideB_by_nonzero {s : State} {d : Byte} (hd : loadB s (.r 0) = .ok d) (hne : d ≠ 0#8) :
    divideB s = writeFlagsB (s.setA (BitVec.ofNat 16 (s.a.toNat / d.toNat))) (.mem (rAddr s 1))
      (BitVec.ofNat 8 (s.a.toNat % d.toNat)) fun t =>
      (t.setFlag .cf false).setFlag .zf (BitVec.ofNat 16 (s.a.toNat / d.toNat) == 0#16) := by
  have hne' : ¬ d = 0 := hne
  unfold divideB
  simp only [hd, hne', byteLoc, Res.bind_ok, if_false]

/-- Settles O42: DIV is `storeQuotient` and DIVB a write of A and then of r1, each with CF and then ZF; by zero, with
free values. -/
theorem Arithmetic.divide : Obligations.Divide := by
  refine ⟨fun s hi d hlegal hpc hhi hd hacc hp0 hp1 => ?_, fun s d hlegal hpc hd hacc hp => ?_⟩
  · have hacc0 : (WLoc.mem (erAddr s 0)).accessible s.cfg = true := WLoc.accessible_of_readW hhi
    by_cases hzero : d = 0#16
    · subst hzero
      obtain ⟨u, hu, hpcu, hcf, -, hchanges⟩ := storeQuotient_flags (s := s.draw.2.draw.2.draw.2) s.draw.1
        s.draw.2.draw.1 s.draw.2.draw.2.draw.1 (writesCfThenZf_freeFlag true) hlegal.apart (erAddr_apart s) hacc0
        hacc hp0 hp1
      have hdraws (may : Touch) (st : List Word) : Changes s s.draw.2.draw.2.draw.2 may st :=
        ((changes_draw s may st).trans (changes_draw _ may st)).trans (changes_draw _ may st)
      exact ⟨_, finish_next ((divide_by_zero hhi hd hp0).trans hu) hpcu hpc, hcf, fun hne => absurd rfl hne, rfl,
        ((hdraws _ _).trans hchanges).setPc _⟩
    · obtain ⟨u, hu, hpcu, hcf, hholds, hchanges⟩ := storeQuotient_flags _ _ _ (writesCfThenZf_wideZero false _ _)
        hlegal.apart (erAddr_apart s) hacc0 hacc hp0 hp1
      obtain ⟨hzf, hzf'⟩ := wideZero_mod (u.setFlag .cf false) ((hi.toNat * 65536 + s.a.toNat) / d.toNat)
      refine ⟨_, finish_next ((divide_by_nonzero hhi hd hzero hp0).trans hu) hpcu hpc,
        hcf.trans (decide_eq_false hzero).symm, fun _ => ⟨hholds.a, hholds.high, hholds.remainder, hzf, hzf'⟩, rfl,
        hchanges.setPc _⟩
  · by_cases hzero : d = 0#8
    · subst hzero
      obtain ⟨u, hu, hpcu, hcf, -, -, -, hchanges⟩ := writeFlagsB_cf_zf (s := s.draw.2.draw.2.setA s.draw.1)
        (loByte s.draw.2.draw.1) (writesCfThenZf_freeFlag true) hlegal hacc hp
      have hdraws : Changes s s.draw.2.draw.2 (Touch.all .acc) (BLoc.mem (rAddr s 1)).bytes :=
        (changes_draw s _ _).trans (changes_draw _ _ _)
      exact ⟨_, finish_next ((divideB_by_zero hd).trans hu) hpcu hpc, hcf, fun hne => absurd rfl hne, rfl,
        ((hdraws.trans (changes_setA _ _ _)).comp hchanges).setPc _⟩
    · have hsmall : s.a.toNat / d.toNat < 65536 := Nat.lt_of_le_of_lt (Nat.div_le_self _ _) s.a.isLt
      obtain ⟨u, hu, hpcu, hcf, hwrote, ha, hrem, hchanges⟩ :=
        writeFlagsB_cf_zf (s := s.setA (BitVec.ofNat 16 (s.a.toNat / d.toNat))) (l := .mem (rAddr s 1))
          (BitVec.ofNat 8 (s.a.toNat % d.toNat))
          (writesCfThenZf_setFlag false (BitVec.ofNat 16 (s.a.toNat / d.toNat) == 0#16)) hlegal hacc hp
      have hval := ha.trans (hwrote.a_of_odd (rAddr_one_odd s))
      rw [State.setA_a, loByte_ofNat] at hval
      exact ⟨_, finish_next ((divideB_by_nonzero hd hzero).trans hu) hpcu hpc, hcf.trans (decide_eq_false hzero).symm,
        fun _ => ⟨hval, hrem, (State.flag_setFlag_self _ .zf _).trans (ofNat_beq_zero hsmall)⟩, rfl,
        ((changes_setA s _ _).comp hchanges).setPc _⟩

end Sys2Proof.Machine
end

section
/-! Proofs about ANDB, ORB and XORB with a constant on PSWH, which write no flag (spec/46_logic.md R350,
spec/10_state.md R26, R34, R36). -/

namespace Sys2Proof.Machine

/-! PSWH as a byte location: by name, or as the odd byte of the word of data memory that shows PSW (R36). -/

/-- A byte write where data memory shows a register writes that byte of the register. -/
theorem writeByte_reg {s : State} {ea : Word} {r : CpuReg} (h : regAt s.cfg ea = some r) (v : Byte) :
    writeByte s ea v = .ok (s.setReg r (withByte (s.reg r) (ea.getLsbD 0) v)) := by simp [writeByte, place, h]

theorem BLoc.holdsPswh_mem {c : Config} {ea : Word} :
    (BLoc.mem ea).holdsPswh c = true ↔ regAt c ea = some .psw ∧ ea.getLsbD 0 = true := by
  simp [BLoc.holdsPswh]

theorem readB_pswh {s : State} {l : BLoc} (hp : l.holdsPswh s.cfg = true) : readB s l = .ok (hiByte s.psw) := by
  cases l with
  | pswh => rfl
  | pswl => cases hp
  | mem ea =>
    obtain ⟨hreg, hodd⟩ := BLoc.holdsPswh_mem.1 hp
    refine (readByte_reg hreg).trans ?_
    rw [hodd]; rfl

/-- A byte write to PSWH keeps PSWL and everything else. -/
theorem writeB_pswh {s : State} {l : BLoc} (hp : l.holdsPswh s.cfg = true) (v : Byte) :
    writeB s l v = .ok { s with psw := mkWord v (loByte s.psw) } := by
  cases l with
  | pswh => rfl
  | pswl => cases hp
  | mem ea =>
    obtain ⟨hreg, hodd⟩ := BLoc.holdsPswh_mem.1 hp
    refine (writeByte_reg hreg v).trans ?_
    rw [hodd]; rfl

/-- On PSWH the logical operations with a constant are the write of the result alone (R342, R34, decision D4). -/
theorem logicImmB_pswh {s : State} {o : BObj} {l : BLoc} (hl : byteLoc s o = .ok l)
    (hp : l.holdsPswh s.cfg = true) (op : AluOp) (n : Byte) :
    logicImmB op o n s =
      .ok { s with psw := mkWord (alu op (hiByte s.psw) n (s.flag .cf)).result (loByte s.psw) } := by
  unfold logicImmB
  simp only [hl, readB_pswh hp, writeB_pswh hp, hp, Res.bind_ok, cond_true]

/-- Settles O40: the three are `logicImmB`, which on PSWH writes the byte and no flag. -/
theorem logicOnPswh : Obligations.LogicOnPswh := by
  intro s n o l i v hl hp hpc hi
  have run (op : AluOp) := finish_next (logicImmB_pswh hl hp op n) rfl hpc
  simp only [List.mem_cons, Prod.mk.injEq, List.not_mem_nil, or_false] at hi
  obtain ⟨rfl, rfl⟩ | ⟨rfl, rfl⟩ | ⟨rfl, rfl⟩ := hi
  · exact run .and
  · exact run .or
  · exact run .xor

end Sys2Proof.Machine
end

section
/-! Proofs about DAA, DAS and EXTND (spec/48_decimal_extend.md R380 to R384).
Theorems stand under `DecimalExtend` where the model's own function has the name of the obligation. -/

namespace Sys2Proof.Machine

/-! DAA and DAS as updates of AL and of the flags (R381, R382). -/

theorem Touch.flags_pair (c : Config) (f g : Flag) :
    (Touch.flags c [f]).or (Touch.flags c [g]) = Touch.flags c [f, g] := by
  funext r k
  simp only [Touch.or, Touch.flags, List.any_cons, List.any_nil, Bool.or_false, Bool.and_or_distrib_left]

/-- A write of AL and of two flags, the second of which leads to `u`, changes no more than these. -/
theorem changes_al_flags {s u : State} (v : Byte) (f g : Flag) (b : Bool)
    (hu : Changes ((s.setAl v).setFlag f b) u (Touch.flags s.cfg [g]) []) :
    Changes s u ((Touch.half .acc false).or (Touch.flags s.cfg [f, g])) [] := by
  rw [← Touch.flags_pair]
  exact (changes_setAl s v []).comp ((changes_setFlag (s.setAl v) f b []).comp hu)

/-- DAA leaves AL, CF and HC as the two steps of R381 do. -/
theorem decimalAdd_spec (s : State) (hf : FlagsApart s.cfg) :
    ((decimalAdd s).al, (decimalAdd s).flag .cf, (decimalAdd s).flag .hc) =
      daaOut s.al (s.flag .cf) (s.flag .hc) ∧
    Changes s (decimalAdd s) ((Touch.half .acc false).or (Touch.flags s.cfg [.cf, .hc])) [] := by
  unfold decimalAdd
  obtain ⟨v, c, h⟩ := daaOut s.al (s.flag .cf) (s.flag .hc)
  have hcf : (((s.setAl v).setFlag .cf c).setFlag .hc h).flag .cf = c :=
    (State.flag_setFlag_ne ((s.setAl v).setFlag .cf c) .hc .cf h hf.cf_hc).trans (State.flag_setFlag_self _ .cf c)
  exact ⟨Prod.ext (State.al_setAl s v) (Prod.ext hcf (State.flag_setFlag_self _ .hc h)),
    changes_al_flags v .cf .hc c (changes_setFlag _ .hc h [])⟩

/-- DAS leaves AL as the two steps of R382 do, and HC = 0. -/
theorem decimalSub_spec (s : State) (hf : FlagsApart s.cfg) :
    (decimalSub s).al = dasOut s.al (s.flag .cf) (s.flag .hc) ∧ (decimalSub s).flag .hc = false ∧
    (decimalSub s).flag .cf = s.flag .cf ∧
    Changes s (decimalSub s) ((Touch.half .acc false).or (Touch.flags s.cfg [.hc, .zf])) [] := by
  have hzf := changes_freeFlag ((s.setAl (dasOut s.al (s.flag .cf) (s.flag .hc))).setFlag .hc false) .zf []
  have hchanges : Changes s (decimalSub s) ((Touch.half .acc false).or (Touch.flags s.cfg [.hc, .zf])) [] :=
    changes_al_flags _ .hc .zf false hzf
  refine ⟨State.al_setAl s _, (hzf.flag .hc ?_).trans (State.flag_setFlag_self _ .hc false), hchanges.flag .cf ?_,
    hchanges⟩
  · simpa [Touch.flags] using hf.zf_hc.symm
  · simp [Touch.or, Touch.half, Touch.flags, hf.cf_hc, hf.cf_zf]

/-! Packed decimal. Let a decimal result have the tens digit `t` and the units digit `u`, with the carries (or borrows)
`k` out of the units and `h` out of the tens. The binary sum of the bytes is `16 * t + u`, short of 6 for `k` and with
160 over for `h`; the binary difference has 6 over for `k` and is short of 160 for `h`. The two steps of R381 and R382
find `k` and `h` and add (or subtract) 6 and 96 for them, which leaves `16 * t + u` and a multiple of 256. -/

/-- The byte of the two decimal digits of a number under a hundred. -/
def packed (k : Nat) : Byte := BitVec.ofNat 8 (k / 10 * 16 + k % 10)

theorem packed_toNat {k : Nat} (hk : k < 100) : (packed k).toNat = k / 10 * 16 + k % 10 :=
  (BitVec.toNat_ofNat _ _).trans (Nat.mod_eq_of_lt (by omega))

theorem packed_digits {t u : Nat} (hu : u < 10) : packed (10 * t + u) = BitVec.ofNat 8 (16 * t + u) :=
  congrArg (BitVec.ofNat 8) (by omega)

/-- DAA of the binary sum `n`: the two digits in AL, and the carry out of the tens in CF. Two digits sum to 18 at most,
so a carry out of the units leaves `u` below 9. -/
theorem daaOut_of_carries {al : Byte} {t u n : Nat} {h k : Bool} (ht : t < 10) (hu : u + k.toNat < 10)
    (hn : n + 6 * k.toNat = 16 * t + u + 160 * h.toNat) (hal : al.toNat = n % 256) :
    (daaOut al (decide (256 ≤ n)) (decide (16 ≤ u + 10 * k.toNat))).1 = packed (10 * t + u) ∧
      (daaOut al (decide (256 ≤ n)) (decide (16 ≤ u + 10 * k.toNat))).2.1 = h := by
  have hlow : (decide (10 ≤ al.toNat % 16) || decide (16 ≤ u + 10 * k.toNat)) = k := by
    rw [← Bool.decide_or]
    cases k with
    | false => exact decide_eq_false (by simp only [Bool.toNat_false] at hn ⊢; omega)
    | true => exact decide_eq_true (by simp only [Bool.toNat_true] at hn hu ⊢; omega)
  have hsix : (bif k then 6 else 0) = 6 * k.toNat := by cases k <;> rfl
  have hunits : (al.toNat + 6 * k.toNat) % 256 = (16 * t + u + 160 * h.toNat) % 256 := by omega
  have hcarry : (decide (256 ≤ n) || decide (255 < al.toNat + 6 * k.toNat)) =
      decide (256 ≤ 16 * t + u + 160 * h.toNat) := by
    rw [← Bool.decide_or]
    exact decide_eq_decide.2 (by omega)
  have hhigh : (decide (10 ≤ (16 * t + u + 160 * h.toNat) % 256 / 16) ||
      decide (256 ≤ 16 * t + u + 160 * h.toNat)) = h := by
    rw [← Bool.decide_or]
    cases h with
    | false => exact decide_eq_false (by simp only [Bool.toNat_false]; omega)
    | true => exact decide_eq_true (by simp only [Bool.toNat_true]; omega)
  simp only [daaOut, hlow, hsix, hunits, hcarry, hhigh]
  rw [packed_digits (by omega)]
  refine ⟨BitVec.eq_of_toNat_eq ?_, ?_⟩
  · rw [BitVec.toNat_ofNat, BitVec.toNat_ofNat]
    cases h with
    | false => simp only [Bool.toNat_false, cond_false]; omega
    | true => simp only [Bool.toNat_true, cond_true]; omega
  · rw [← Bool.decide_or]
    cases h with
    | false => exact decide_eq_false (by simp only [Bool.toNat_false, cond_false]; omega)
    | true => exact decide_eq_true (by simp only [Bool.toNat_true, cond_true]; omega)

/-- DAS of the binary difference `n`: the two digits. -/
theorem dasOut_of_borrows {al : Byte} {t u : Nat} {n : Int} {h k : Bool} (ht : t < 10) (hu : u < 10)
    (hn : n = 16 * t + u - 160 * h.toNat + 6 * k.toNat) (hal : (al.toNat : Int) = n % 256) :
    dasOut al (decide (n < 0)) k = packed (10 * t + u) := by
  have hlow : (decide (10 ≤ al.toNat % 16) || k) = k := by
    cases k with
    | false =>
      rw [Bool.or_false]
      exact decide_eq_false (by simp only [Bool.toNat_false] at hn; omega)
    | true => exact Bool.or_true _
  have hunits : ((bif k then al - 0x06#8 else al).toNat : Int) = (16 * t + u - 160 * h.toNat) % 256 := by
    cases k with
    | false => simp only [Bool.toNat_false, cond_false] at hn ⊢; omega
    | true => simp only [Bool.toNat_true, cond_true, BitVec.toNat_sub, BitVec.toNat_ofNat] at hn ⊢; omega
  simp only [dasOut, hlow]
  generalize (bif k then al - 0x06#8 else al) = v at hunits
  have hk : k.toNat ≤ 1 := k.toNat_le
  have hhigh : (decide (10 ≤ v.toNat / 16) || decide (n < 0)) = h := by
    rw [← Bool.decide_or]
    cases h with
    | false => exact decide_eq_false (by simp only [Bool.toNat_false] at hn hunits; omega)
    | true => exact decide_eq_true (by simp only [Bool.toNat_true] at hn; omega)
  rw [hhigh, packed_digits hu]
  refine BitVec.eq_of_toNat_eq ?_
  cases h with
  | false => simp only [Bool.toNat_false, cond_false, BitVec.toNat_ofNat] at hunits ⊢; omega
  | true => simp only [Bool.toNat_true, cond_true, BitVec.toNat_sub, BitVec.toNat_ofNat] at hunits ⊢; omega

/-- The two values of a carry as a number, each with what it tells. -/
theorem toNat_decide_cases (p : Prop) [Decidable p] : p ∧ (decide p).toNat = 1 ∨ ¬p ∧ (decide p).toNat = 0 := by
  by_cases h : p
  · exact .inl ⟨h, congrArg Bool.toNat (decide_eq_true h)⟩
  · exact .inr ⟨h, congrArg Bool.toNat (decide_eq_false h)⟩

/-- DAA after the flags of the sum of two decimal bytes (R293, R296, R297, R381). -/
theorem daaOut_add_packed {x y : Nat} (hx : x < 100) (hy : y < 100) :
    let sum := alu .add (packed x) (packed y) false
    let out := daaOut sum.result (sum.carry.getD false) (sum.half.getD false)
    out.1 = packed ((x + y) % 100) ∧ out.2.1 = decide (100 ≤ x + y) := by
  have hpx := packed_toNat hx
  have hpy := packed_toNat hy
  have hh := toNat_decide_cases (100 ≤ x + y)
  have hk := toNat_decide_cases (10 ≤ x % 10 + y % 10)
  have hout := daaOut_of_carries (t := (x + y) % 100 / 10) (u := (x + y) % 10) (h := decide (100 ≤ x + y))
    (k := decide (10 ≤ x % 10 + y % 10)) (by omega) (by omega) (by rw [Bool.toNat_false]; omega)
    (addOut_result_toNat (packed x) (packed y) false)
  have hhalf : decide (16 ≤ (x + y) % 10 + 10 * (decide (10 ≤ x % 10 + y % 10)).toNat) =
      decide (16 ≤ (packed x).toNat % 16 + (packed y).toNat % 16 + false.toNat) :=
    decide_eq_decide.2 (by rw [Bool.toNat_false]; omega)
  have hdigits : 10 * ((x + y) % 100 / 10) + (x + y) % 10 = (x + y) % 100 := by omega
  rw [hhalf, hdigits] at hout
  exact hout

/-- CF after SBCB of two decimal bytes is the decimal borrow (R296). -/
theorem sbc_packed_carry {x y : Nat} (hx : x < 100) (hy : y < 100) (c : Bool) :
    (alu .sbc (packed x) (packed y) c).carry = some (decide (x < y + c.toNat)) := by
  have hpx := packed_toNat hx
  have hpy := packed_toNat hy
  have hc := c.toNat_le
  exact congrArg some (decide_eq_decide.2 (by omega))

/-- DAS after the flags of the SBCB of two decimal bytes (R293, R296, R297, R382). -/
theorem dasOut_sbc_packed {x y : Nat} (hx : x < 100) (hy : y < 100) (c : Bool) :
    let diff := alu .sbc (packed x) (packed y) c
    dasOut diff.result (diff.carry.getD false) (diff.half.getD false) = packed ((x + 100 - y - c.toNat) % 100) := by
  have hpx := packed_toNat hx
  have hpy := packed_toNat hy
  have hc := c.toNat_le
  have hh := toNat_decide_cases (x < y + c.toNat)
  have hk := toNat_decide_cases (x % 10 < y % 10 + c.toNat)
  have hout := dasOut_of_borrows (t := (x + 100 - y - c.toNat) % 100 / 10) (u := (x + 100 - y - c.toNat) % 10)
    (h := decide (x < y + c.toNat)) (k := decide (x % 10 < y % 10 + c.toNat)) (by omega) (by omega) (by omega)
    (subOut_result_toNat (packed x) (packed y) c)
  have hcarry : decide (((packed x).toNat : Int) - (packed y).toNat - c.toNat < 0) =
      decide ((packed x).toNat < (packed y).toNat + c.toNat) := decide_eq_decide.2 (by omega)
  have hhalf : decide (x % 10 < y % 10 + c.toNat) =
      decide ((packed x).toNat % 16 < (packed y).toNat % 16 + c.toNat) := decide_eq_decide.2 (by omega)
  have hdigits : 10 * ((x + 100 - y - c.toNat) % 100 / 10) + (x + 100 - y - c.toNat) % 10 =
      (x + 100 - y - c.toNat) % 100 := by omega
  rw [hcarry, hhalf, hdigits] at hout
  exact hout

/-- Settles O44: DAA and DAS are `decimalAdd` and `decimalSub`, and on decimal bytes their two steps carry digit by
digit. -/
theorem decimalAdjust : Obligations.DecimalAdjust := by
  refine ⟨fun s hlegal hpc => ⟨?_, ?_⟩, fun x y => daaOut_add_packed x.isLt y.isLt,
    fun x y c => ⟨dasOut_sbc_packed x.isLt y.isLt c, sbc_packed_carry x.isLt y.isLt c⟩⟩
  · obtain ⟨hout, hchanges⟩ := decimalAdd_spec s hlegal.apart
    exact ⟨_, finish_next rfl rfl hpc, hout, rfl, hchanges.setPc _⟩
  · obtain ⟨hal, hhc, hcf, hchanges⟩ := decimalSub_spec s hlegal.apart
    exact ⟨_, finish_next rfl rfl hpc, hal, hhc, hcf, rfl, hchanges.setPc _⟩

/-! EXTND (R384). -/

/-- A sign-extended byte is the byte under a high byte of its sign. -/
theorem signExtend_eq_mkWord (b : Byte) : b.signExtend 16 = mkWord (if b.getLsbD 7 then 0xFF#8 else 0x00#8) b :=
  BitVec.signExtend_eq_append_of_le (by omega)

/-- EXTND replaces the high byte of A alone, and then writes DD. -/
theorem signExtend_eq (s : State) :
    signExtend s = (s.setReg .acc (withByte s.a true (if s.a.getLsbD 7 then 0xFF#8 else 0x00#8))).setDd true := by
  have hsign : s.al.getLsbD 7 = s.a.getLsbD 7 := getLsbD_al s (by omega)
  rw [← hsign]
  exact congrArg (fun v => (s.setA v).setDd true) (signExtend_eq_mkWord s.al)

/-- Settles O45: EXTND is `signExtend`, a write of AH and then of DD. -/
theorem DecimalExtend.signExtend : Obligations.SignExtend := by
  refine fun s => ⟨rfl, fun hpc => ⟨_, finish_next (congrArg Except.ok (signExtend_eq s)) rfl hpc, rfl,
    State.dd_setDd _ true, rfl, Changes.setPc ?_ _⟩⟩
  exact (changes_setReg_half s .acc true _ []).comp (changes_setDd _ true [])

end Sys2Proof.Machine
end

section
/-! Proofs about the bit operations (spec/49_bit.md R390 to R401). -/

namespace Sys2Proof.Machine

/-- One bit of a value replaced, as the set or the clear of R390. -/
theorem setBit_eq_ite {w : Nat} (v : BitVec w) (n : Nat) (b : Bool) :
    setBit v n b = if b then v ||| (1#w <<< n) else v &&& ~~~(1#w <<< n) := by cases b <;> rfl

theorem loadB_of_read {s : State} {o : BObj} {l : BLoc} {v : Byte} (hl : byteLoc s o = .ok l)
    (hv : readB s l = .ok v) : loadB s o = .ok v := by
  unfold loadB
  rw [hl, Res.bind_ok, hv]

/-! SB, RB, SBR and RBR: the object is read and written, and then ZF. -/

section TestedBit
variable {s : State} {o : BObj} {l : BLoc} {v : Byte} (hl : byteLoc s o = .ok l) (hv : readB s l = .ok v)
include hl hv

/-- Off PSWH the byte is written and ZF tells the old bit (R391). -/
theorem putTestedBit_ok (hlegal : legalConfig s.cfg) (hp : l.holdsPswh s.cfg = false) (n : BitVec 3) (b : Bool) :
    ∃ t, putTestedBit o n b s = .ok t ∧ t.pc = s.pc ∧ readB t l = .ok (setBit v n.toNat b &&& l.mask s.cfg) ∧
      t.flag .zf = !v.getLsbD n.toNat ∧
      Changes s t ((l.touches s.cfg).or (Touch.flags s.cfg [.zf])) l.bytes := by
  obtain ⟨u, hu⟩ := writeB_total (setBit v n.toNat b) (BLoc.accessible_of_readB hv)
  have hwrote := writeB_wrote hu
  have hcfg := hwrote.changes.cfg
  have hflag := changes_setFlag u .zf (!v.getLsbD n.toNat) []
  rw [hcfg] at hflag
  refine ⟨u.setFlag .zf (!v.getLsbD n.toNat), ?_, hwrote.pc, ?_, State.flag_setFlag_self _ _ _,
    hwrote.changes.comp hflag.stored⟩
  · unfold putTestedBit
    simp only [hl, hv, hu, hp, Res.bind_ok, cond_false]
  · have hkept := readB_flags hflag (fun _ _ => List.not_mem_nil) (hcfg ▸ hp) (by simpa using hlegal.apart.zf_high)
    exact hkept.trans hwrote.value

/-- On PSWH the byte is written and then ZF becomes free (R34, log entry 13). -/
theorem putTestedBit_pswh (hp : l.holdsPswh s.cfg = true) (n : BitVec 3) (b : Bool) :
    putTestedBit o n b s = .ok ((s.setReg .psw (withByte s.psw true (setBit v n.toNat b))).freeFlag .zf) := by
  unfold putTestedBit
  simp only [hl, hv, writeB_pswh hp, hp, Res.bind_ok, cond_true]
  rfl

end TestedBit

/-- The high byte of a word is its bits 15..8. -/
theorem getLsbD_mkWord_high (h l : Byte) (j : Nat) : (mkWord h l).getLsbD (j + 8) = h.getLsbD j := by
  unfold mkWord
  rw [BitVec.getLsbD_append, if_neg (by omega), Nat.add_sub_cancel]

/-- PSWH written and then a flag in it made free changes PSWH alone. -/
theorem changes_pswh_freeFlag (s : State) (v : Byte) {f : Flag} (hf : 8 ≤ f.bit s.cfg) (st : List Word) :
    Changes s ((s.setReg .psw (withByte s.psw true v)).freeFlag f) (Touch.half .psw true) st := by
  refine (changes_setReg_half s .psw true v st).trans
    ((changes_freeFlag (s.setReg .psw (withByte s.psw true v)) f st).mono (fun r k hk => ?_) fun _ h => h)
  have hlow : r = .psw → k < 8 := by simpa [Touch.half] using hk
  simp only [Touch.flags, List.any_cons, List.any_nil, Bool.or_false, Bool.and_eq_false_imp, beq_iff_eq,
    beq_eq_false_iff_ne, State.setReg_cfg]
  intro hr
  have := hlow hr
  omega

/-- Settles O46: the four are `putTestedBit`, and its two cases are those of the statement. -/
theorem setResetBit : Obligations.SetResetBit := by
  intro s o k n i b l v hlegal hi hpc hl hv
  have hexec : exec i s = finish (o.prefixLen + 1) (putTestedBit o n b s) := by
    refine of_mem_forms (fun i n b => exec i s = finish (o.prefixLen + 1) (putTestedBit o n b s)) hi ?_
    simp only [List.forall_mem_cons, List.not_mem_nil, false_imp_iff, implies_true, and_true]
    exact ⟨rfl, rfl, rfl, rfl⟩
  rw [hexec]
  cases hp : l.holdsPswh s.cfg with
  | false =>
    obtain ⟨t, ht, hpct, hval, hzf, hchanges⟩ := putTestedBit_ok hl hv hlegal hp n b
    rw [setBit_eq_ite] at hval
    exact ⟨_, finish_next ht hpct hpc, rfl, fun _ => ⟨(readB_setPc t _ l).trans hval, hzf, hchanges.setPc _⟩, nofun⟩
  | true =>
    refine ⟨_, finish_next (putTestedBit_pswh hl hv hp n b) rfl hpc, rfl, nofun, fun _ => ⟨fun j _ hzf => ?_,
      (changes_pswh_freeFlag s _ hlegal.apart.zf_high _).setPc _⟩⟩
    have hfree : ((s.setReg .psw (withByte s.psw true (setBit v n.toNat b))).freeFlag .zf).psw.getLsbD (j + 8) =
        (mkWord (setBit v n.toNat b) (loByte s.psw)).getLsbD (j + 8) := by
      rw [State.freeFlag_psw, getLsbD_setBit]
      exact if_neg hzf
    have hn : n.toNat < 8 := n.isLt
    refine hfree.trans ?_
    rw [getLsbD_mkWord_high, getLsbD_setBit, decide_eq_true hn, Bool.and_true]

/-! TBR, MB and MBR. -/

/-- On an object that can be read, MB obj.bit,C and MBR obj,C are a store of it with the bit replaced (R396, R401). -/
theorem carryToBit_of_read {s : State} {o : BObj} {l : BLoc} {v : Byte} (hl : byteLoc s o = .ok l)
    (hv : readB s l = .ok v) (n : BitVec 3) :
    carryToBit o n s = storeB s o (setBit v n.toNat (s.flag .cf)) := by
  unfold carryToBit storeB
  rw [hl, Res.bind_ok, hv, Res.bind_ok, Res.bind_ok]

/-- Settles O47: the reading forms write one flag after a load, and the writing forms are a store. -/
theorem testMoveBit : Obligations.TestMoveBit := by
  intro s o k n i l v hpc hl hv
  have hload := loadB_of_read hl hv
  refine ⟨?_, fun hi => ?_, fun hi => ?_⟩
  · exact ⟨_, finish_read hload (fun v => s.setFlag .zf (!v.getLsbD s.bitIndex.toNat)) rfl hpc,
      State.flag_setFlag_self s .zf _, rfl, (changes_setFlag s .zf _ []).setPc _⟩
  · have hexec : exec i s = finish (o.prefixLen + 1) (bitToCarry o n s) := by
      simp only [List.mem_cons, Prod.mk.injEq, List.not_mem_nil, or_false] at hi
      obtain ⟨rfl, rfl⟩ | ⟨rfl, rfl⟩ := hi <;> rfl
    rw [hexec]
    exact ⟨_, finish_read hload (fun v => s.setFlag .cf (v.getLsbD n.toNat)) rfl hpc,
      State.flag_setFlag_self s .cf _, rfl, (changes_setFlag s .cf _ []).setPc _⟩
  · have hexec : exec i s = finish (o.prefixLen + 1) (carryToBit o n s) := by
      simp only [List.mem_cons, Prod.mk.injEq, List.not_mem_nil, or_false] at hi
      obtain ⟨rfl, rfl⟩ | ⟨rfl, rfl⟩ := hi <;> rfl
    rw [hexec, carryToBit_of_read hl hv n, setBit_eq_ite]
    exact finish_storeB _ hpc hl (BLoc.accessible_of_readB hv)

end Sys2Proof.Machine
end

section
/-! Proofs about the jumps, the calls and the returns (spec/50_jump_call.md R410 to R428).
Theorems stand under `JumpCall` where the model's own function has the name of the obligation. -/

namespace Sys2Proof.Machine

/-! Jumps. -/

theorem jump_next {s : State} {target : Res Word} {tgt : Word} (h : target = .ok tgt) :
    jump s target = .next (s.setPc tgt) := by
  rw [h]; rfl

/-- Settles O48: each is a jump to a target that is read, or refused. -/
theorem jumps : Obligations.Jumps := fun _ =>
  ⟨fun _ _ htgt => jump_next (relTarget_ok htgt), fun _ hout => congrArg (jump _) (relTarget_refused hout),
    fun _ => rfl, fun _ _ hv => jump_next hv⟩

/-- A branch of `n` bytes goes to its target where it is taken, and past itself where it is not (R411, R417). -/
theorem branchTarget_ok {s : State} {n : Nat} {rel : Byte} {taken : Bool} {tgt : Word}
    (h : if taken then (tgt.toNat : Int) = s.pc.toNat + n + rel.toInt else tgt.toNat = s.pc.toNat + n) :
    branchTarget s n rel taken = .ok tgt := by
  cases taken with
  | true => exact relTarget_ok h
  | false =>
    have hsum : tgt.toNat = s.pc.toNat + n := h
    have hlt : tgt.toNat < 65536 := tgt.isLt
    have hnext : s.pc + BitVec.ofNat 16 n = tgt :=
      BitVec.eq_of_toNat_eq (by rw [BitVec.toNat_add, BitVec.toNat_ofNat]; omega)
    exact (returnAddress_ok (by omega)).trans (congrArg Except.ok hnext)

/-- Settles O49: each is a jump to the target of its branch, with the statement's condition. -/
theorem conditionalJumps : Obligations.ConditionalJumps := by
  intro s rel tgt i len taken hi htgt
  have hexec : exec i s = jump s (branchTarget s len rel taken) := by
    obtain hi | ⟨d, v, n, hv, hi⟩ := hi
    · refine of_mem_forms (fun i len taken => exec i s = jump s (branchTarget s len rel taken)) hi ?_
      simp only [List.forall_mem_cons, List.not_mem_nil, false_imp_iff, implies_true, and_true]
      exact ⟨rfl, rfl, rfl, rfl, rfl, rfl⟩
    · have hload (f : Byte → Res Word) : jump s (loadB s (.off d) >>= f) = jump s (f v) :=
        congrArg (fun x => jump s (x >>= f)) hv
      refine of_mem_forms (fun i len taken => exec i s = jump s (branchTarget s len rel taken)) hi ?_
      simp only [List.forall_mem_cons, List.not_mem_nil, false_imp_iff, implies_true, and_true]
      exact ⟨hload _, hload _⟩
  exact hexec.trans (jump_next (branchTarget_ok htgt))

/-- A byte of data memory that shows no register holds all of a byte. -/
theorem BLoc.mask_of_regAt_none {c : Config} {ea : Word} (h : regAt c ea = none) :
    (BLoc.mem ea).mask c = 0xFF#8 := by
  simp only [BLoc.mask, h]
  rfl

theorem BLoc.touches_of_regAt_none {c : Config} {ea : Word} (h : regAt c ea = none) :
    (BLoc.mem ea).touches c = Touch.nothing := by
  simp only [BLoc.touches, h]

theorem WLoc.touches_of_regAt_none {c : Config} {ea : Word} (h : regAt c ea = none) :
    (WLoc.mem ea).touches c = Touch.nothing := by
  simp only [WLoc.touches, h]

/-- The pointing registers lie above every address of a CPU register (spec/10_state.md R36, R38). -/
theorem regAt_ptrAddr {s : State} (hlegal : legalConfig s.cfg) (p : Ptr) : regAt s.cfg (ptrAddr s p) = none :=
  hlegal.regAt_none (by rw [ptrAddr_toNat]; omega)

/-- Settles O50: the counter lies in data memory, where its byte alone is written. -/
theorem JumpCall.loopJump : Obligations.LoopJump := by
  intro s rel v tgt hlegal hv htgt
  have hreg := regAt_ptrAddr hlegal .dp
  have htarget : branchTarget s 2 rel (v - 1#8 != 0#8) = .ok tgt := by
    refine branchTarget_ok ?_
    simp only [count_ne_zero, decide_eq_true_eq, ne_eq, ite_not]
    exact htgt
  obtain ⟨u, hu⟩ := writeByte_total (v - 1#8) (accessible_of_readByte hv)
  have hwrote := writeByte_wrote hu
  have hval : readByte u (ptrAddr s .dp) = .ok (v - 1#8) := by
    refine hwrote.value.trans ?_
    rw [BLoc.mask_of_regAt_none hreg]
    exact congrArg Except.ok BitVec.and_allOnes
  have hchanges := hwrote.changes
  rw [BLoc.touches_of_regAt_none hreg] at hchanges
  have hrun : exec (.jrnz rel) s = .next (u.setPc tgt) := by
    show Machine.loopJump rel s = _
    unfold Machine.loopJump
    rw [hv, Res.bind_ok, htarget, Res.bind_ok, hu]
    rfl
  exact ⟨_, hrun, hval, rfl, hchanges.setPc _⟩

/-! Calls. -/

/-- A word that shows no register reads the same after a flag is written. -/
theorem readWord_setFlag {s : State} {ea : Word} (h : regAt s.cfg ea = none) (f : Flag) (b : Bool) :
    readWord (s.setFlag f b) ea = readWord s ea :=
  readW_flags (l := .mem ea) (changes_setFlag s f b []) (fun _ _ => List.not_mem_nil) (by simp [WLoc.holdsPswh, h])

/-- A call whose target is read goes there, with the return address pushed and SF = 0 (R425). -/
theorem call_next {s : State} {n : Nat} {target : Res Word} {tgt : Word} (ht : target = .ok tgt)
    (hpc : s.pc.toNat + n ≤ 0xFFFF) (hssp : 2 ≤ s.ssp.toNat) (hacc : (WLoc.mem s.ssp).accessible s.cfg = true) :
    ∃ t, call n target s = .next t ∧ t.pc = tgt ∧ t.ssp = s.ssp - 2#16 ∧ t.flag .sf = false ∧
      (regAt s.cfg s.ssp = none → readWord t s.ssp = .ok (s.pc + BitVec.ofNat 16 n)) ∧
      Changes s t ((Touch.all .ssp).or (((WLoc.mem s.ssp).touches s.cfg).or (Touch.flags s.cfg [.sf])))
        (WLoc.mem s.ssp).bytes := by
  obtain ⟨u, hpush, hsspu, -, hread, hchanges⟩ := push16_spec (s.pc + BitVec.ofNat 16 n) hssp hacc
  have hcfg := hchanges.cfg
  have hflag := changes_setFlag u .sf false (WLoc.mem s.ssp).bytes
  rw [hcfg] at hflag
  refine ⟨(u.setFlag .sf false).setPc tgt, ?_, rfl, hsspu, State.flag_setFlag_self u .sf false, fun hreg => ?_, ?_⟩
  · unfold call
    rw [ht, Res.bind_ok, returnAddress_ok hpc, Res.bind_ok, hpush]
    rfl
  · exact (readWord_setFlag (hcfg ▸ hreg) .sf false).trans (hread hreg)
  · rw [← Touch.or_assoc]
    exact (hchanges.comp hflag).setPc tgt

/-- Settles O51: the four are `call`, each with its own target. -/
theorem calls : Obligations.Calls := by
  rintro s tgt i len hpc hssp hacc
    (⟨rel, rfl, rfl, htgt⟩ | ⟨rfl, rfl⟩ | ⟨o, rfl, rfl, hload⟩ | ⟨n, lo, hi, rfl, rfl, hlo, hhi, rfl⟩)
  · exact call_next (relTarget_ok htgt) hpc hssp hacc
  · exact call_next rfl hpc hssp hacc
  · exact call_next hload hpc hssp hacc
  · exact call_next (romWord_vcalEntry hlo hhi) hpc hssp hacc

/-! RT. -/

/-- RT pops PC and clears SF (R427). -/
theorem exec_rt_next {s : State} {v : Word} (hssp : s.ssp.toNat + 2 ≤ 0xFFFF)
    (hv : readWord s (s.ssp + 2#16) = .ok v) :
    ∃ t, exec .rt s = .next t ∧ t.pc = v ∧ t.ssp = s.ssp + 2#16 ∧ t.flag .sf = false ∧
      Changes s t ((Touch.all .ssp).or (Touch.flags s.cfg [.sf])) [] := by
  have hrun : exec .rt s = .next (({ s with ssp := s.ssp + 2#16 }.setFlag .sf false).setPc v) := by
    show execRt s = _
    unfold execRt
    rw [pop16_ok hssp hv]
    rfl
  exact ⟨_, hrun, rfl, rfl, State.flag_setFlag_self { s with ssp := s.ssp + 2#16 } .sf false,
    ((changes_ssp s _ []).comp (changes_setFlag { s with ssp := s.ssp + 2#16 } .sf false [])).setPc v⟩

/-- Where SSP is back at its value it is not among what changed. -/
theorem Changes.of_ssp_eq {s t : State} {f : Touch} {st : List Word} (h : Changes s t ((Touch.all .ssp).or f) st)
    (hssp : t.ssp = s.ssp) : Changes s t f st where
  cfg := h.cfg
  rom := h.rom
  env := h.env
  bytes := h.bytes
  regs r k hk := by
    cases r with
    | ssp => exact congrArg (·.getLsbD k) hssp
    | lrb | psw | acc => exact h.regs _ k hk

/-- Settles O52: RT is a pop; after a call the word it pops is the return address. -/
theorem returnRt : Obligations.ReturnRt := by
  refine ⟨fun s v hssp hv => exec_rt_next hssp hv, fun s ad hpc hssp hreg hacc => ?_⟩
  obtain ⟨t, hcall, hpct, hsspt, -, hread, hchanges⟩ := call_next (target := .ok ad) rfl hpc hssp hacc
  have hback : t.ssp + 2#16 = s.ssp := by rw [hsspt]; exact BitVec.sub_add_cancel _ _
  have hrange : t.ssp.toNat + 2 ≤ 0xFFFF := by rw [hsspt]; bv_omega
  refine ⟨t, hcall, hpct, fun h _ hssph hword => ?_, ?_⟩
  · obtain ⟨u, hrt, hpcu, hsspu, -, -⟩ := exec_rt_next (s := h) (hssph ▸ hrange)
      (by rw [hssph, hback, hword]; exact hread hreg)
    exact ⟨u, hrt, hpcu, by rw [hsspu, hssph, hback]⟩
  · obtain ⟨u, hrt, -, hsspu, -, hpop⟩ := exec_rt_next hrange (by rw [hback]; exact hread hreg)
    refine ⟨u, hrt, Changes.of_ssp_eq ?_ (hsspu.trans hback)⟩
    rw [WLoc.touches_of_regAt_none hreg] at hchanges
    rw [hchanges.cfg] at hpop
    exact hchanges.trans hpop.stored

/-! RTI. -/

/-- A word that does not show SSP reads the same after SSP is written. -/
theorem readWord_ssp_write_of_ne {s : State} {ea : Word} (h : regAt s.cfg ea ≠ some .ssp) (v : Word) :
    readWord { s with ssp := v } ea = readWord s ea := by
  refine readW_of_changes (l := .mem ea) (changes_ssp s v []) (fun _ _ => List.not_mem_nil) fun r k hk => ?_
  simp only [WLoc.touches] at hk
  cases hr : regAt s.cfg ea with
  | none => rw [hr] at hk; cases hk
  | some q =>
    rw [hr] at h hk
    obtain rfl : r = q := beq_iff_eq.1 hk
    exact beq_eq_false_iff_ne.2 fun he => h (congrArg some he)

/-- A pop that takes SSP from `x` to `y`. -/
theorem pop16_at {s : State} {x y v : Word} (hxy : x.toNat + 2 = y.toNat)
    (hv : readWord { s with ssp := x } y = .ok v) :
    pop16 { s with ssp := x } = .ok (v, { s with ssp := y }) := by
  have hy : x + 2 = y := by bv_omega
  have hrange : x.toNat + 2 ≤ 0xFFFF := by omega
  subst hy
  exact pop16_ok (s := { s with ssp := x }) hrange hv

/-- RTI: four pops, and then the four registers (R428). -/
theorem exec_rti_next {s : State} {p l a c : Word} (hssp : s.ssp.toNat + 8 ≤ 0xFFFF)
    (hp : readWord s (s.ssp + 2#16) = .ok p) (hl : readWord { s with ssp := s.ssp + 2#16 } (s.ssp + 4#16) = .ok l)
    (ha : readWord { s with ssp := s.ssp + 4#16 } (s.ssp + 6#16) = .ok a)
    (hc : readWord { s with ssp := s.ssp + 6#16 } (s.ssp + 8#16) = .ok c) :
    exec .rti s = .next { s with psw := p, lrb := l.extractLsb' 0 13, a := a, pc := c, ssp := s.ssp + 8#16 } := by
  have hpop1 : pop16 s = .ok (p, { s with ssp := s.ssp + 2#16 }) := pop16_at (x := s.ssp) (by bv_omega) hp
  have hpop2 := pop16_at (by bv_omega) hl
  have hpop3 := pop16_at (by bv_omega) ha
  have hpop4 := pop16_at (by bv_omega) hc
  show outcome (returnFromInterrupt s) = _
  unfold returnFromInterrupt
  simp only [hpop1, hpop2, hpop3, hpop4, Res.bind_ok]
  rw [← BitVec.setWidth_eq_extractLsb' (by omega)]
  rfl

/-- Settles O53: where the later words do not show SSP, they read the same at each pop as before the first. -/
theorem returnRti : Obligations.ReturnRti := by
  refine fun s p l a c hssp => ⟨exec_rti_next hssp, fun hp hl ha hc hreg => exec_rti_next hssp hp ?_ ?_ ?_⟩
  · exact (readWord_ssp_write_of_ne (hreg _ (by simp)) _).trans hl
  · exact (readWord_ssp_write_of_ne (hreg _ (by simp)) _).trans ha
  · exact (readWord_ssp_write_of_ne (hreg _ (by simp)) _).trans hc

end Sys2Proof.Machine
end

section
/-! Proofs about SC, RC and NOP (spec/51_other.md R441, R442, R444), about the resets (R443, spec/60_exceptions.md
R453, R455) and about the launch of a run (spec/70_reset_and_hazards.md R490, R491). -/

namespace Sys2Proof.Machine

/-- Settles O60: SC and RC are a write of CF, NOP is nothing, and then PC moves on. -/
theorem carryAndNop : Obligations.CarryAndNop := by
  refine fun s => ⟨rfl, rfl, rfl, fun hpc => ?_⟩
  have write (b : Bool) : ∃ t, finish 1 (.ok (s.setFlag .cf b)) = .next t ∧ t.flag .cf = b ∧ t.pc = s.pc + 1#16 ∧
      Changes s t (Touch.flags s.cfg [.cf]) [] :=
    ⟨_, finish_next rfl rfl hpc, State.flag_setFlag_self s .cf b, rfl, (changes_setFlag s .cf b []).setPc _⟩
  exact ⟨write true, write false, finish_next rfl rfl hpc⟩

/-! Resets. -/

/-- A reset whose vector is present leads there with DD = 0, and pushes nothing (R453, R492). -/
theorem takeReset_next {s : State} {cause : ResetCause} {lo hi : Byte} (hlo : s.rom.cell cause.vector.toNat = some lo)
    (hhi : s.rom.cell (cause.vector.toNat + 1) = some hi) :
    ∃ t, outcome (takeReset cause s) = .next t ∧ t.pc = mkWord hi lo ∧ t.dd = false ∧ t.cfg = s.cfg ∧ t.rom = s.rom ∧
      t.env = s.env ∧ (s.cfg.resetKeepsRam = true → t.ram = s.ram) := by
  refine ⟨_, congrArg outcome (takeReset_ok hlo hhi), rfl, resetProcessing_dd s, rfl, rfl, rfl, fun hkeeps => ?_⟩
  refine (resetProcessing_ram s).trans ?_
  rw [hkeeps, cond_true]

/-- Settles O56: BRK is a reset, and so is a step at which the watchdog is due. -/
theorem resetEvents : Obligations.ResetEvents := by
  refine fun s lo hi => ⟨fun hlo hhi => takeReset_next (cause := .brk) hlo hhi, fun hdue hlo hhi => ?_⟩
  rw [step_of_due hdue]
  exact takeReset_next (s := s.passBoundary) (cause := .watchdog) hlo hhi

/-! The launch. -/

/-- Settles O3: a launch reads the vector word, and the environment's first choice is due where it is live. -/
theorem launchLoadsVector : Obligations.LaunchLoadsVector := by
  refine ⟨fun c rom env lo hi hlo hhi => ?_, fun c rom env habsent t hlaunch => ?_⟩
  · have hvector : romWord { State.reset with rom := rom } ResetCause.resetPin.vector = .ok (mkWord hi lo) :=
      romWord_ok (by decide) hlo hhi
    refine ⟨{ State.reset with cfg := c, rom := rom, pc := mkWord hi lo, env := env }, ?_, rfl, resetState.1, rfl, rfl,
      rfl, fun e hlive hfirst => State.due_eq_some.2 ⟨hlive, ?_⟩⟩
    · unfold State.launch
      rw [hvector, Res.bind_ok]
    · obtain ⟨rest, hturn⟩ | ⟨hout, hfree⟩ := hfirst
      · exact Environment.choice_of_event hturn
      · exact (Environment.choice_of_run_out hout).trans hfree
  · obtain ⟨v, hvector, -⟩ := Res.bind_eq_ok hlaunch
    obtain ⟨-, lo, hi, hlo, hhi, -⟩ := romWord_cases hvector
    have hlo' : rom.cell 0 = some lo := hlo
    have hhi' : rom.cell 1 = some hi := hhi
    rcases habsent with h | h
    · cases h.symm.trans hlo'
    · cases h.symm.trans hhi'

end Sys2Proof.Machine
end

section
/-! Proofs about an interrupt, which pushes four words, and RTI, which pops them (spec/60_exceptions.md R460 to R465,
spec/50_jump_call.md R428). -/

namespace Sys2Proof.Machine

/-! Pushes to data memory, one after the other. -/

/-- The address of the word that a stack from `ssp` down holds at place `i`. -/
def stackWord (ssp : Word) (i : Nat) : Word := ssp - BitVec.ofNat 16 (2 * i)

/-- The bytes of the first `n` words of a stack from `ssp` down. -/
def stackBytes (ssp : Word) (n : Nat) : List Word := (List.range n).flatMap fun i => (WLoc.mem (stackWord ssp i)).bytes

/-- The words pushed in the order of the list (R75). -/
def pushAll : List Word → State → Res State
  | [], s => .ok s
  | v :: vs, s => push16 v s >>= pushAll vs

/-- What pushes to data memory that shows no register do: `t` is `s` with the words on its stack. -/
structure Pushed (s t : State) (vs : List Word) : Prop where
  ssp : t.ssp = stackWord s.ssp vs.length
  words : ∀ (i : Nat) (hi : i < vs.length), readWord t (stackWord s.ssp i) = .ok vs[i]
  changes : Changes s t (Touch.all .ssp) (stackBytes s.ssp vs.length)

theorem stackWord_zero (ssp : Word) : stackWord ssp 0 = ssp := BitVec.sub_zero ssp

theorem stackWord_toNat {ssp : Word} {i : Nat} (h : 2 * i ≤ ssp.toNat) :
    (stackWord ssp i).toNat = ssp.toNat - 2 * i := by
  unfold stackWord
  bv_omega

theorem stackWord_less (ssp : Word) (i : Nat) : stackWord (ssp - 2#16) i = stackWord ssp (i + 1) := by
  unfold stackWord
  bv_omega

theorem mem_stackBytes {ssp ea : Word} {n : Nat} :
    ea ∈ stackBytes ssp n ↔ ∃ i < n, ea ∈ (WLoc.mem (stackWord ssp i)).bytes := by
  simp only [stackBytes, List.mem_flatMap, List.mem_range]

/-- The words below the first are those of the stack after a push. -/
theorem mem_stackBytes_of_less {ssp ea : Word} {n : Nat} (h : ea ∈ stackBytes (ssp - 2#16) n) :
    ea ∈ stackBytes ssp (n + 1) := by
  obtain ⟨i, hi, hea⟩ := mem_stackBytes.1 h
  rw [stackWord_less] at hea
  exact mem_stackBytes.2 ⟨i + 1, by omega, hea⟩

/-- The first word has no byte in common with the words below it. -/
theorem first_word_apart {ssp : Word} {n : Nat} (h : 2 * (n + 1) ≤ ssp.toNat) :
    ∀ ea ∈ (WLoc.mem ssp).bytes, ea ∉ stackBytes (ssp - 2#16) n := by
  intro ea hea hmem
  obtain ⟨i, hi, hbelow⟩ := mem_stackBytes.1 hmem
  rw [stackWord_less] at hbelow
  refine word_bytes_apart ?_ ea hea hbelow
  rw [stackWord_toNat (by omega)]
  omega

/-- A word that shows no register reads as before where no byte of it was stored. -/
theorem readWord_of_changes {s t : State} {may : Touch} {st : List Word} {ea : Word} (h : Changes s t may st)
    (hreg : regAt s.cfg ea = none) (hst : ∀ x ∈ (WLoc.mem ea).bytes, x ∉ st) : readWord t ea = readWord s ea :=
  readW_of_changes (l := .mem ea) h hst fun r k hk => by
    rw [WLoc.touches_of_regAt_none hreg] at hk
    cases hk

/-- What a push that goes through leaves, where its word shows no register. -/
theorem push16_pushed {s t : State} {v : Word} (h : push16 v s = .ok t) (hreg : regAt s.cfg s.ssp = none) :
    t.ssp = s.ssp - 2#16 ∧ readWord t s.ssp = .ok v ∧ Changes s t (Touch.all .ssp) (WLoc.mem s.ssp).bytes := by
  obtain ⟨-, u, hwrote, rfl⟩ := push16_cases h
  have hchanges := hwrote.changes
  rw [WLoc.touches_of_regAt_none hreg] at hchanges
  refine ⟨rfl, ?_, (hchanges.mono (fun _ _ _ => rfl) fun _ h => h).trans (changes_ssp u _ _)⟩
  refine (readWord_ssp_write (hchanges.cfg ▸ hreg) _).trans (hwrote.value.trans ?_)
  rw [WLoc.mask_of_regAt_none hreg]
  exact congrArg Except.ok BitVec.and_allOnes

/-- Pushes that go through are on the stack, where their words show no register: each stays as the later ones are
pushed below it. -/
theorem pushAll_pushed {vs : List Word} {s t : State} (h : pushAll vs s = .ok t) (hssp : 2 * vs.length ≤ s.ssp.toNat)
    (hreg : ∀ i < vs.length, regAt s.cfg (stackWord s.ssp i) = none) : Pushed s t vs := by
  induction vs generalizing s with
  | nil =>
    obtain rfl := Except.ok.inj h
    exact ⟨(stackWord_zero _).symm, fun _ hi => absurd hi (Nat.not_lt_zero _), Changes.refl _ _ _⟩
  | cons v vs ih =>
    rw [List.length_cons] at hssp hreg
    obtain ⟨u, hpush, hrest⟩ := Res.bind_eq_ok h
    have hfirst : regAt s.cfg s.ssp = none := stackWord_zero s.ssp ▸ hreg 0 (Nat.succ_pos _)
    obtain ⟨hsspu, hread, hchanges⟩ := push16_pushed hpush hfirst
    have hcfg := hchanges.cfg
    have hpushed : Pushed u t vs := by
      refine ih hrest (by rw [hsspu]; bv_omega) fun i hi => ?_
      rw [hsspu, stackWord_less, hcfg]
      exact hreg (i + 1) (by omega)
    have hbelow := hpushed.changes
    rw [hsspu] at hbelow
    refine ⟨?_, fun i hi => ?_, ?_⟩
    · rw [hpushed.ssp, hsspu, stackWord_less, List.length_cons]
    · cases i with
      | zero =>
        rw [stackWord_zero]
        exact (readWord_of_changes hbelow (hcfg ▸ hfirst) (first_word_apart hssp)).trans hread
      | succ i =>
        rw [← stackWord_less, ← hsspu]
        exact hpushed.words i (Nat.lt_of_succ_lt_succ hi)
    · refine (hchanges.mono (fun _ _ h => h) fun ea hea => ?_).trans
        (hbelow.mono (fun _ _ h => h) fun _ => mem_stackBytes_of_less)
      exact mem_stackBytes.2 ⟨0, Nat.succ_pos _, by rwa [stackWord_zero]⟩

/-- Pushes go through where their words can be written and SSP stays in range. -/
theorem pushAll_ok {vs : List Word} {s : State} (hssp : 2 * vs.length ≤ s.ssp.toNat)
    (hacc : ∀ i < vs.length, (WLoc.mem (stackWord s.ssp i)).accessible s.cfg = true) :
    ∃ t, pushAll vs s = .ok t := by
  induction vs generalizing s with
  | nil => exact ⟨s, rfl⟩
  | cons v vs ih =>
    rw [List.length_cons] at hssp hacc
    obtain ⟨u, hpush, hsspu, -, -, hchanges⟩ :=
      push16_spec v (by omega) (stackWord_zero s.ssp ▸ hacc 0 (Nat.succ_pos _))
    obtain ⟨t, ht⟩ : ∃ t, pushAll vs u = .ok t := by
      refine ih (by rw [hsspu]; bv_omega) fun i hi => ?_
      rw [hsspu, hchanges.cfg]
      exact stackWord_less s.ssp i ▸ hacc (i + 1) (by omega)
    exact ⟨t, by rw [pushAll, hpush, Res.bind_ok, ht]⟩

/-! Taking an interrupt. -/

/-- An entry pushes PC, A, LRB and PSW, and then loads PC from the vector (R462). -/
theorem takeInterrupt_eq (src : IntSource) (s : State) :
    takeInterrupt src s = pushAll [s.pc, s.a, s.lrbWord, s.psw] s >>= fun t =>
      romWord s src.vector >>= fun v => .ok (t.setPc v) := by
  simp only [takeInterrupt, pushAll, bind_assoc, Res.bind_ok]

/-- What holds of the four words of an entry, as the statements name them, holds of the first four of the stack. -/
theorem forall_stackWord {ssp : Word} (P : Word → Prop) (h : ∀ k, k ∈ [0#16, 2#16, 4#16, 6#16] → P (ssp - k)) :
    ∀ i < 4, P (stackWord ssp i) := by
  simp only [List.forall_mem_cons, List.not_mem_nil, false_imp_iff, implies_true, and_true] at h
  obtain ⟨h0, h1, h2, h3⟩ := h
  intro i hi
  obtain rfl | rfl | rfl | rfl : i = 0 ∨ i = 1 ∨ i = 2 ∨ i = 3 := by omega
  exacts [h0, h1, h2, h3]

/-- Words popped from a stack are met from the last one pushed up. -/
theorem stackWord_add (ssp : Word) (i j : Nat) :
    stackWord ssp (i + j) + BitVec.ofNat 16 (2 * j) = stackWord ssp i := by
  unfold stackWord
  bv_omega

/-- The thirteen bits of LRB in the word it reads as (spec/10_state.md R35). -/
theorem State.lrbWord_extract (s : State) : s.lrbWord.extractLsb' 0 13 = s.lrb := by
  rw [← BitVec.setWidth_eq_extractLsb' (by omega)]
  exact BitVec.setWidth_setWidth_of_le _ (by omega)

theorem intVector_lt (src : IntSource) : src.vector.toNat < 0xFFFF := by cases src <;> decide

/-- Settles O54: an entry is four pushes to data memory, and the vector is read. -/
theorem interruptEntry : Obligations.InterruptEntry := by
  intro s src lo hi hdue hssp hframe hlo hhi
  have hwords := forall_stackWord (fun w => regAt s.cfg w = none ∧ (WLoc.mem w).accessible s.cfg = true) hframe
  obtain ⟨t, ht⟩ := pushAll_ok (vs := [s.pc, s.a, s.lrbWord, s.psw]) (s := s.passBoundary) hssp
    fun i hi => (hwords i hi).2
  have hpushed := pushAll_pushed ht hssp fun i hi => (hwords i hi).1
  have hchanges := hpushed.changes
  have hword (i : Nat) (hi : i < 4) := hpushed.words i hi
  have hword0 : readWord t s.ssp = .ok s.pc := stackWord_zero s.ssp ▸ hword 0 (by omega)
  have hvector : romWord s.passBoundary src.vector = .ok (mkWord hi lo) := romWord_ok (intVector_lt src) hlo hhi
  have hstep : step s = .next (t.setPc (mkWord hi lo)) := by
    rw [step_of_due hdue]
    show outcome (takeInterrupt src s.passBoundary) = _
    rw [takeInterrupt_eq]
    show outcome (pushAll [s.pc, s.a, s.lrbWord, s.psw] s.passBoundary >>= _) = _
    rw [ht, Res.bind_ok, hvector]
    rfl
  have hlrb : t.lrb = s.lrb := by
    rw [← State.lrbWord_extract, hchanges.lrbWord fun _ => rfl]
    exact State.lrbWord_extract s
  refine ⟨_, hstep, rfl, hpushed.ssp, hword0, hword 1 (by omega), hword 2 (by omega), hword 3 (by omega),
    hchanges.a fun _ => rfl, hlrb, hchanges.psw fun _ => rfl, hchanges.cfg, hchanges.rom, hchanges.env,
    fun ea hea hreg => hchanges.bytes ea (fun hmem => ?_) hreg⟩
  obtain ⟨i, hi, hmem⟩ := mem_stackBytes.1 hmem
  exact forall_stackWord (fun w => ea ∉ (WLoc.mem w).bytes) hea i hi hmem

/-- Settles O55: RTI pops the four words of the entry, none of which shows SSP. -/
theorem rtiUndoesInterrupt : Obligations.RtiUndoesInterrupt := by
  intro s t h src hssp hreg htake hcfg hssph hframe
  rw [takeInterrupt_eq] at htake
  obtain ⟨u, hpush, htake⟩ := Res.bind_eq_ok htake
  obtain ⟨v, -, htake⟩ := Res.bind_eq_ok htake
  obtain rfl := Except.ok.inj htake
  have hpushed := pushAll_pushed hpush hssp fun i (hi : i < 4) => hreg (2 * i) (by omega)
  have hkept := forall_stackWord (fun w => readWord h w = readWord u w) hframe
  have hread (i : Nat) (hi : i < 4) := (hkept i hi).trans (hpushed.words i hi)
  have hssp4 : h.ssp = stackWord s.ssp 4 := hssph.trans hpushed.ssp
  have hword1 : h.ssp + 2#16 = stackWord s.ssp 3 := hssp4 ▸ stackWord_add s.ssp 3 1
  have hword2 : h.ssp + 4#16 = stackWord s.ssp 2 := hssp4 ▸ stackWord_add s.ssp 2 2
  have hword3 : h.ssp + 6#16 = stackWord s.ssp 1 := hssp4 ▸ stackWord_add s.ssp 1 3
  have hword4 : h.ssp + 8#16 = stackWord s.ssp 0 := hssp4 ▸ stackWord_add s.ssp 0 4
  have hrange : h.ssp.toNat + 8 ≤ 0xFFFF := by
    rw [hssp4, stackWord_toNat hssp]
    omega
  have hnot (i : Nat) (hi : i < 4) : regAt h.cfg (stackWord s.ssp i) ≠ some .ssp := by
    have hnone : regAt s.cfg (stackWord s.ssp i) = none := hreg (2 * i) (by omega)
    have hcfgs : h.cfg = s.cfg := hcfg.trans hpushed.changes.cfg
    rw [hcfgs, hnone]
    nofun
  have hrti := (returnRti h s.psw s.lrbWord s.a s.pc hrange).2 (hword1 ▸ hread 3 (by omega))
    (hword2 ▸ hread 2 (by omega)) (hword3 ▸ hread 1 (by omega)) (hword4 ▸ hread 0 (by omega)) (by
      simp only [List.forall_mem_cons, List.not_mem_nil, false_imp_iff, implies_true, and_true, hword2, hword3, hword4]
      exact ⟨hnot 2 (by omega), hnot 1 (by omega), hnot 0 (by omega)⟩)
  rwa [hword4, stackWord_zero, State.lrbWord_extract] at hrti

end Sys2Proof.Machine
end
